-- ==== Sys2Proof/Word.lean ====
section
/-! DEFINITION. The two bit-vector types of CORE and the two readings of a register (spec/00_scope.md R14, R15). -/

namespace Sys2Proof

/-- A 32-bit register or command word (R13, R26, R80); bit 0 is the least significant (R14). -/
abbrev Word := BitVec 32

/-- A byte of buffer memory (R14, R45). -/
abbrev Byte := BitVec 8

/-- `u32(w)`: the word read as an unsigned number, 0 to 2^32-1 (R15). -/
abbrev u32 (w : Word) : Nat := w.toNat

/-- `s32(w)`: the word read as a two's-complement number, -2^31 to 2^31-1 (R15). -/
abbrev s32 (w : Word) : Int := w.toInt

end Sys2Proof
end

