-- ==== Sys2Proof/Syntax.lean ====
section
/-! DEFINITION. The command set CORE-CS 1 as syntax: one constructor of `Instr` per row of spec/opcode_table.json, with the
flag fields of spec/30_encoding.md R83 as its arguments. -/

namespace Sys2Proof

/-- CURVEG7's field AM, `alphaMode` (R83, R163, R165). All four values are legal. -/
inductive AlphaMode where
  | preserve
  | opaque
  | transparent
  | threshold
  deriving DecidableEq, Repr

/-- CURVEG7's field CMB, `combine` (R83, R166). `reserved3` is the field value 3, which R88 reserves. -/
inductive Combine where
  | and
  | replace
  | or
  | reserved3
  deriving DecidableEq, Repr

/-- CONVRGB's and CONVA's field KSEL (R83, R188). `reserved7` is the field value 7, which R88 reserves. -/
inductive KernelSel where
  | custom
  | identity
  | sharpen
  | gaussian
  | boxBlur
  | prewittX
  | prewittY
  | reserved7
  deriving DecidableEq, Repr

/-- The thirteen commands (R4, R82). A one-bit flag is a `Bool`, under the name R83 gives it. -/
inductive Instr where
  /-- NORM, opcode 0x01: AO is `alphaOnly`, FO is `forceOpaque` (R105). -/
  | norm (ao fo : Bool)
  /-- GB7DEC, opcode 0x02, no flags (R122). -/
  | gb7dec
  /-- GB7ENC, opcode 0x03: FO is `forceOpaque` (R130). -/
  | gb7enc (fo : Bool)
  /-- LUTBUILD, opcode 0x04: D7 selects `max = 127` (R145). -/
  | lutbuild (d7 : Bool)
  /-- CURVE, opcode 0x05: a LUT is provided for red, green, blue, alpha (R155). -/
  | curve (lr lg lb la : Bool)
  /-- CURVEG7, opcode 0x06: YL a LUT is provided, AM `alphaMode`, INV `invert`, CMB `combine` (R160). -/
  | curveg7 (yl : Bool) (am : AlphaMode) (inv : Bool) (cmb : Combine)
  /-- HIST, opcode 0x07: AO is `alphaOnly` (R169). -/
  | hist (ao : Bool)
  /-- HISTG7, opcode 0x08, no flags (R173). -/
  | histg7
  /-- CONVRGB, opcode 0x09 (R189). -/
  | convrgb (ksel : KernelSel)
  /-- CONVA, opcode 0x0A (R190). -/
  | conva (ksel : KernelSel)
  /-- RSNN, opcode 0x0B, no flags (R202). -/
  | rsnn
  /-- RSBL, opcode 0x0C, no flags (R204). -/
  | rsbl
  /-- RENDER, opcode 0x0D: BL selects bilinear interpolation (R215). -/
  | render (bl : Bool)
  deriving DecidableEq, Repr

end Sys2Proof
end

