-- ==== Sys2Proof/WellFormed.lean ====
section
/-! DEFINITION. Which terms of the syntax are legal commands: those whose multi-bit fields hold no reserved value
(spec/30_encoding.md R88). Every other field admits all its values. -/

namespace Sys2Proof

/-- CMB is not the reserved value 3 (R88). -/
def Combine.legal : Combine → Bool
  | .and => true
  | .replace => true
  | .or => true
  | .reserved3 => false

/-- KSEL is not the reserved value 7 (R88). -/
def KernelSel.legal : KernelSel → Bool
  | .custom => true
  | .identity => true
  | .sharpen => true
  | .gaussian => true
  | .boxBlur => true
  | .prewittX => true
  | .prewittY => true
  | .reserved7 => false

/-- No field of the command holds a reserved value: check (3) of R81. -/
def Instr.wf : Instr → Bool
  | .norm _ _ => true
  | .gb7dec => true
  | .gb7enc _ => true
  | .lutbuild _ => true
  | .curve _ _ _ _ => true
  | .curveg7 _ _ _ cmb => cmb.legal
  | .hist _ => true
  | .histg7 => true
  | .convrgb ksel => ksel.legal
  | .conva ksel => ksel.legal
  | .rsnn => true
  | .rsbl => true
  | .render _ => true

end Sys2Proof
end

