-- ==== Sys2Proof/Decode.lean ====
section
/-! DEFINITION. Decoding a command word and encoding a command (spec/30_encoding.md R80 to R88, R95). Decoding reads no
register and no memory and is total on all 2^32 words (R81). -/

namespace Sys2Proof

/-- Why a command word is illegal: the sub-causes 1, 2, 3 of IllegalCommand, by name (R81, R246). -/
inductive IllegalCause where
  /-- Sub-cause 1: `w[7:0]` is none of the thirteen opcodes (R86). -/
  | unassignedOpcode
  /-- Sub-cause 2: a 1 in a bit of `w[31:8]` that the command does not define (R87). -/
  | undefinedFlag
  /-- Sub-cause 3: a defined multi-bit field holds a reserved value (R88). -/
  | reservedField
  deriving DecidableEq, Repr

/-- The field AM, bits 10:9 (R83). -/
def alphaModeField (w : Word) : AlphaMode :=
  match w.getLsbD 10, w.getLsbD 9 with
  | false, false => .preserve
  | false, true => .opaque
  | true, false => .transparent
  | true, true => .threshold

/-- The field CMB, bits 13:12 (R83). -/
def combineField (w : Word) : Combine :=
  match w.getLsbD 13, w.getLsbD 12 with
  | false, false => .and
  | false, true => .replace
  | true, false => .or
  | true, true => .reserved3

/-- The field KSEL, bits 10:8 (R83). -/
def kernelField (w : Word) : KernelSel :=
  match w.getLsbD 10, w.getLsbD 9, w.getLsbD 8 with
  | false, false, false => .custom
  | false, false, true => .identity
  | false, true, false => .sharpen
  | false, true, true => .gaussian
  | true, false, false => .boxBlur
  | true, false, true => .prewittX
  | true, true, false => .prewittY
  | true, true, true => .reserved7

/-- The row of R82 and R83 for an opcode: the command's defined flag bits, as a mask of the command word, and the command that
the flag fields of `w` name; `none` where no command has that opcode (R86). -/
def commandRow (w : Word) : Nat → Option (Word × Instr)
  | 0x01 => some (0x00000300#32, .norm (w.getLsbD 8) (w.getLsbD 9))
  | 0x02 => some (0x00000000#32, .gb7dec)
  | 0x03 => some (0x00000200#32, .gb7enc (w.getLsbD 9))
  | 0x04 => some (0x00000100#32, .lutbuild (w.getLsbD 8))
  | 0x05 => some (0x00000F00#32, .curve (w.getLsbD 8) (w.getLsbD 9) (w.getLsbD 10) (w.getLsbD 11))
  | 0x06 => some (0x00003F00#32, .curveg7 (w.getLsbD 8) (alphaModeField w) (w.getLsbD 11) (combineField w))
  | 0x07 => some (0x00000100#32, .hist (w.getLsbD 8))
  | 0x08 => some (0x00000000#32, .histg7)
  | 0x09 => some (0x00000700#32, .convrgb (kernelField w))
  | 0x0A => some (0x00000700#32, .conva (kernelField w))
  | 0x0B => some (0x00000000#32, .rsnn)
  | 0x0C => some (0x00000000#32, .rsbl)
  | 0x0D => some (0x00000100#32, .render (w.getLsbD 8))
  | _ => none

/-- The opcode field `w[7:0]` (R80). -/
def opcode (w : Word) : Nat := w.toNat % 256

/-- Decoding in the order of R81: the opcode, then the undefined flag bits, then the reserved field values. -/
def decode (w : Word) : Except IllegalCause Instr :=
  match commandRow w (opcode w) with
  | none => .error .unassignedOpcode
  | some (flags, i) =>
    if w &&& ~~~(flags ||| 0xFF#32) = 0#32 then
      if i.wf then .ok i else .error .reservedField
    else .error .undefinedFlag

/-- A flag bit's value in the command word: bit `n` (R83, R93). -/
def flagBit (n : Nat) (b : Bool) : Word := if b then BitVec.ofNat 32 (2 ^ n) else 0#32

/-- AM's value in the command word (R93). -/
def AlphaMode.bits : AlphaMode → Word
  | .preserve => 0x0000#32
  | .opaque => 0x0200#32
  | .transparent => 0x0400#32
  | .threshold => 0x0600#32

/-- CMB's value in the command word (R93); the reserved value 3 is 0x3000. -/
def Combine.bits : Combine → Word
  | .and => 0x0000#32
  | .replace => 0x1000#32
  | .or => 0x2000#32
  | .reserved3 => 0x3000#32

/-- KSEL's value in the command word (R93); the reserved value 7 is 0x0700. -/
def KernelSel.bits : KernelSel → Word
  | .custom => 0x0000#32
  | .identity => 0x0100#32
  | .sharpen => 0x0200#32
  | .gaussian => 0x0300#32
  | .boxBlur => 0x0400#32
  | .prewittX => 0x0500#32
  | .prewittY => 0x0600#32
  | .reserved7 => 0x0700#32

/-- The command word of a command: its opcode OR the values of its flags (R82, R92, R93). -/
def encode : Instr → Word
  | .norm ao fo => 0x01#32 ||| flagBit 8 ao ||| flagBit 9 fo
  | .gb7dec => 0x02#32
  | .gb7enc fo => 0x03#32 ||| flagBit 9 fo
  | .lutbuild d7 => 0x04#32 ||| flagBit 8 d7
  | .curve lr lg lb la => 0x05#32 ||| flagBit 8 lr ||| flagBit 9 lg ||| flagBit 10 lb ||| flagBit 11 la
  | .curveg7 yl am inv cmb => 0x06#32 ||| flagBit 8 yl ||| am.bits ||| flagBit 11 inv ||| cmb.bits
  | .hist ao => 0x07#32 ||| flagBit 8 ao
  | .histg7 => 0x08#32
  | .convrgb ksel => 0x09#32 ||| ksel.bits
  | .conva ksel => 0x0A#32 ||| ksel.bits
  | .rsnn => 0x0B#32
  | .rsbl => 0x0C#32
  | .render bl => 0x0D#32 ||| flagBit 8 bl

/-- The command word whose low `nbits` bits are `w` and whose higher bits are 0. Every command is one 32-bit word (R90). -/
def tableWord (nbits w : Nat) : Word := BitVec.ofNat 32 (w % 2 ^ nbits)

/-- The command the decoder reads from a table row's bits, `none` where it refuses the word. -/
def decodeTableWord (nbits w : Nat) : Option Instr :=
  match decode (tableWord nbits w) with
  | .ok i => some i
  | .error _ => none

end Sys2Proof
end

