-- ==== Sys2Proof/Config.lean ====
section
/-! DEFINITION. What the spec leaves open: MEM_SIZE (spec/00_scope.md R13, 93 U1) and the bytes of buffer memory after a
reset (spec/10_state.md R59, 93 U2). Both are constants without a body: no proof can learn their value. -/

namespace Sys2Proof

/-- The last address of the buffer memory, `MEM_SIZE - 1`. Any value is possible, so MEM_SIZE is any number with
`0 < MEM_SIZE <= 2^32`, exactly the range R13 gives the open parameter. DESIGN CHOICE (log 1): the parameter is this
uninterpreted constant at reset. -/
opaque Config.lastAddress : Word

/-- `MEM_SIZE` of the machine that `State.reset` describes (R13, R45; log 1). -/
def Config.memSize : Nat := u32 Config.lastAddress + 1

/-- The unspecified byte an address holds after a reset until it is written: `resetByte draw address`, a free value of its
own for every reset and every address (R59, R270; log 2). -/
opaque Config.resetByte : Nat → Nat → Byte

end Sys2Proof
end

