-- ==== Sys2Proof/Machine/State.lean ====
section
/-! DEFINITION. The state of CORE (spec/10_state.md R25 to R59), the events the host can cause (R27, spec/70 R270), and the
state right after reset (R58, R59). -/

namespace Sys2Proof.Machine

/-- The buffer memory (R45). `cells` lists the bytes written since the last reset, addresses strictly rising; an address that is
not listed was never written and reads as the free byte `Config.resetByte draw address` (R59; log 2, log 4). -/
structure Memory where
  /-- `MEM_SIZE`, the OPEN parameter of R13; no step changes it (log 1). -/
  size : Nat
  /-- Which draw of unspecified bytes is in force: the number of reset events performed (R270; log 3). -/
  draw : Nat
  /-- The written bytes, by address. -/
  cells : List Host.Cell
  deriving DecidableEq, Repr

/-- What the host can do to CORE: its four operations (R27) and the reset applied between two of them (R270). -/
inductive HostEvent where
  /-- `HostRegWrite(n, v)`; register 28 is CMD, whose write runs the command `v` (R27, R35). -/
  | regWrite (n : Nat) (v : Word)
  /-- `HostRegRead(n)` (R27). -/
  | regRead (n : Nat)
  /-- `HostMemWrite(a, bytes)` (R27). -/
  | memWrite (addr : Word) (bytes : List Byte)
  /-- `HostMemRead(a, len)` (R27). -/
  | memRead (addr : Word) (len : Nat)
  /-- A reset, applied from outside between two host operations (R270). -/
  | reset
  deriving DecidableEq, Repr

/-- What the latest host event returned to the host (R27; log 6). -/
inductive HostReply where
  /-- No event since reset. -/
  | none
  /-- A write or a reset completed; it returns nothing. -/
  | done
  /-- The word a HostRegRead returned. -/
  | word (v : Word)
  /-- The bytes a HostMemRead returned. -/
  | bytes (bs : List Byte)
  deriving DecidableEq, Repr

/-- The whole state of CORE (R25) and the three fields the model adds (`pending`, `reply`, and in `mem` the parameter and the
draw; INVENTORY.md, State). -/
structure State where
  /-- The operand registers A0 to A6 (R28). -/
  a : Vector Word 7
  /-- The kernel coefficients K0 to K8 (R32). -/
  k : Vector Word 9
  /-- The kernel divisor KDIV (R33). -/
  kdiv : Word
  /-- The kernel bias KBIAS (R34). -/
  kbias : Word
  /-- The result registers R0 to R5 (R30). -/
  r : Vector Word 6
  /-- The status register: CODE 7:0, SUB 15:8, DONE 16, bits 31:17 always 0 (R36). -/
  status : Word
  /-- The buffer memory (R45). -/
  mem : Memory
  /-- The host events still to be performed, oldest first: the host's program (R40, R41; log 5). -/
  pending : List HostEvent
  /-- What the latest host event returned (R27; log 6). -/
  reply : HostReply
  deriving DecidableEq, Repr

/-- Why a step can stop with a fault. There is no constructor: CORE has no fault. Every error is the synchronous end of a
command with a code in STATUS, after which the host continues (R247, R258); the model answers it with a next state. -/
inductive Fault where
  deriving DecidableEq, Repr

/-- Why a step has no meaning. -/
inductive Refusal where
  /-- Raised by `exec` for an instruction that has no meaning yet; no arm raises it. Safe: the run stops. -/
  | notModelled (mnemonic : String)
  /-- Raised by a HostMemRead or HostMemWrite whose range is not valid: "the model has no step for it" (R27, R263, U9; log 7).
  It belongs to the host, not to any command. Safe: the run stops. -/
  | hostMemoryRange
  deriving DecidableEq, Repr

/-- The outcome of one step. -/
abbrev Outcome := Host.Outcome State Fault Refusal

/-- The buffer memory after the `draw`-th reset: every byte unspecified (R59, R270). -/
def Memory.fresh (size draw : Nat) : Memory := { size := size, draw := draw, cells := [] }

/-- The machine right after reset: every register reads 0 (R58), every byte of memory is unspecified (R59). MEM_SIZE is the free
constant `Config.memSize` (log 1); no host event is pending and none has returned anything (log 5, log 6). -/
def State.reset : State :=
  { a := #v[0, 0, 0, 0, 0, 0, 0]
    k := #v[0, 0, 0, 0, 0, 0, 0, 0, 0]
    kdiv := 0
    kbias := 0
    r := #v[0, 0, 0, 0, 0, 0]
    status := 0
    mem := Memory.fresh Config.memSize 0
    pending := []
    reply := .none }

end Sys2Proof.Machine
end

