-- ==== Sys2Proof/Machine/Flags.lean ====
section
/-! DEFINITION. STATUS, the only flags CORE has (spec/10_state.md R36 to R38): the error codes and sub-causes of
spec/60_exceptions.md R245, R246, and the STATUS words they give (R247). -/

namespace Sys2Proof.Machine

/-- The errors a command can end with, one constructor per row of R246. -/
inductive CoreError where
  /-- FormatError(1): the buffer is shorter than the 12-byte header (R125). -/
  | formatShort
  /-- FormatError(2): bad magic (R124). -/
  | formatMagic
  /-- FormatError(3): wrong version (R124). -/
  | formatVersion
  /-- FormatError(4): truncated payload (R124). -/
  | formatTruncated
  /-- InvalidDimension(1): resampler target width or height not positive (R252). -/
  | dimTarget
  /-- InvalidDimension(2): a source width, height or pixel count not positive (R252). -/
  | dimSource
  /-- InvalidDimension(3): GB7ENC width or height above 65535 (R252). -/
  | dimEncoder
  /-- IllegalCommand(1), (2), (3): the command word is not a legal encoding (R86 to R88). -/
  | illegalCommand (c : IllegalCause)
  /-- BoundsError(1): source range (R67). -/
  | boundsSource
  /-- BoundsError(2): destination range (R67). -/
  | boundsDestination
  /-- BoundsError(3): layer descriptor or layer table range (R67). -/
  | boundsDescriptor
  /-- BoundsError(4): LUT range (R67). -/
  | boundsLut
  /-- OverlapError(0): the destination shares a byte with a range the command reads (R69). -/
  | overlap
  /-- LayerError(1): KIND is not 0, 1 or 2 (R106, R137). -/
  | layerKind
  deriving DecidableEq, Repr

/-- `STATUS.CODE` of an error (R245). -/
def CoreError.code : CoreError → Nat
  | .formatShort => 1
  | .formatMagic => 1
  | .formatVersion => 1
  | .formatTruncated => 1
  | .dimTarget => 2
  | .dimSource => 2
  | .dimEncoder => 2
  | .illegalCommand _ => 3
  | .boundsSource => 4
  | .boundsDestination => 4
  | .boundsDescriptor => 4
  | .boundsLut => 4
  | .overlap => 5
  | .layerKind => 6

/-- `STATUS.SUB` of an error (R246). -/
def CoreError.sub : CoreError → Nat
  | .formatShort => 1
  | .formatMagic => 2
  | .formatVersion => 3
  | .formatTruncated => 4
  | .dimTarget => 1
  | .dimSource => 2
  | .dimEncoder => 3
  | .illegalCommand .unassignedOpcode => 1
  | .illegalCommand .undefinedFlag => 2
  | .illegalCommand .reservedField => 3
  | .boundsSource => 1
  | .boundsDestination => 2
  | .boundsDescriptor => 3
  | .boundsLut => 4
  | .overlap => 0
  | .layerKind => 1

/-- The word every command leaves in STATUS: `(1 << 16) | (SUB << 8) | CODE` (R37). -/
def statusWord (sub code : Nat) : Word := BitVec.ofNat 32 (1 <<< 16 ||| sub <<< 8 ||| code)

/-- STATUS after a command that ended without error: DONE set, CODE and SUB 0 (R36, R37). -/
def doneStatus : Word := statusWord 0 0

/-- STATUS after a command that ended with the error `e` (R247). -/
def CoreError.statusWord (e : CoreError) : Word := Machine.statusWord e.sub e.code

/-- `STATUS.CODE`, bits 7:0 (R36). -/
def statusCode (w : Word) : Nat := w.toNat % 256

/-- `STATUS.SUB`, bits 15:8 (R36). -/
def statusSub (w : Word) : Nat := w.toNat / 256 % 256

/-- `STATUS.DONE`, bit 16 (R36). -/
def statusDone (w : Word) : Bool := w.getLsbD 16

end Sys2Proof.Machine
end

