-- ==== Sys2Proof/Machine/Ops.lean ====
section
/-! DEFINITION. The named operations over memory and registers (spec/20_memory.md R60 to R69), the entry of an error (spec/60
R247) and the shape every command has: an ordered list of checks, then one effect (R67, R68, R250). -/

namespace Sys2Proof.Machine

/-! ## Bytes of memory -/

/-- `mem[x]` (R19, R45): the byte last written to `x`, or the unspecified byte of the draw in force if nothing has written it
since the last reset (R59, R71; log 2). -/
def Memory.read (m : Memory) (x : Nat) : Byte := (m.cells.lookup x).getD (Config.resetByte m.draw x)

/-- `MemRead(x, n)`: the number whose `n` bytes stand at `x`, most significant byte first (R61). -/
def Memory.readNum (m : Memory) (x : Nat) : Nat → Nat
  | 0 => 0
  | n + 1 => (m.read x).toNat * 256 ^ n + m.readNum (x + 1) n

/-- A 32-bit field of a structure in memory (R47, R61). -/
def Memory.readWord (m : Memory) (x : Nat) : Word := BitVec.ofNat 32 (m.readNum x 4)

/-- The `n` bytes from `x` on. -/
def Memory.readBytes (m : Memory) (x n : Nat) : List Byte := (List.range n).map fun i => m.read (x + i)

/-- The `n` bytes of the number `v`, most significant first: what `MemWrite(a, n, v)` stores (R61). -/
def numBytes (n v : Nat) : List Byte := (List.range n).map fun i => BitVec.ofNat 8 (v / 256 ^ (n - 1 - i))

/-- The bytes of `bs` as cells at `base`, `base + 1`, … -/
def cellsFrom (base : Nat) : List Byte → List Host.Cell
  | [] => []
  | b :: bs => (base, b) :: cellsFrom (base + 1) bs

/-- Memory with the bytes `bs` stored from `base` on and every other byte as before; the cells stay in rising order (R68). -/
def Memory.store (m : Memory) (base : Nat) (bs : List Byte) : Memory :=
  { m with
    cells := m.cells.filter (fun c => c.1 < base) ++ cellsFrom base bs
      ++ m.cells.filter (fun c => base + bs.length ≤ c.1) }

/-- The memory's form: MEM_SIZE is legal (R13), the addresses of the cells strictly rise and lie inside the memory (R45). An
unlisted address has no written byte, so no cell can repeat what an unlisted address holds (log 4). -/
def Memory.wf (m : Memory) : Bool :=
  decide (0 < m.size) && decide (m.size ≤ 2 ^ 32) && decide (m.cells.Pairwise fun c d => c.1 < d.1)
    && m.cells.all fun c => decide (c.1 < m.size)

/-! ## Ranges -/

/-- The range `[base, base + len)` of byte addresses (R24, R66). Address arithmetic is exact and never wraps (R65). -/
structure Range where
  base : Nat
  len : Nat
  deriving DecidableEq, Repr

/-- A range is valid in `m` iff it is empty or ends inside the memory (R66). -/
def Range.valid (g : Range) (m : Memory) : Bool := decide (g.len = 0) || decide (g.base + g.len ≤ m.size)

/-- Two ranges share a byte (R69). -/
def Range.meets (g h : Range) : Bool :=
  decide (0 < g.len) && decide (0 < h.len) && decide (g.base < h.base + h.len) && decide (h.base < g.base + g.len)

/-- The address `x` lies in the range. -/
def Range.has (g : Range) (x : Nat) : Bool := decide (g.base ≤ x) && decide (x < g.base + g.len)

/-! ## Registers -/

/-- Two results in R0 and R1 (R31). -/
def setResults2 (r : Vector Word 6) (r0 r1 : Word) : Vector Word 6 := #v[r0, r1, r[2], r[3], r[4], r[5]]

/-- Three results in R0, R1 and R2 (R31). -/
def setResults3 (r : Vector Word 6) (r0 r1 r2 : Word) : Vector Word 6 := #v[r0, r1, r2, r[3], r[4], r[5]]

/-! ## The entry of an error, and the end of a command -/

/-- The state with STATUS overwritten as a whole, as every command does at its end (R37). -/
def State.ended (s : State) (status : Word) : State := { s with status := status }

/-- The state with the bytes `bs` stored at `base` and the result registers `r`: all a command writes but for STATUS (R68). -/
def State.wrote (s : State) (base : Nat) (bs : List Byte) (r : Vector Word 6) : State :=
  { s with mem := s.mem.store base bs, r := r }

/-- The state after `raise E(sub)`: STATUS is overwritten and nothing else changes; no memory byte, no result, operand or kernel
register (R247, R249). Nothing is saved, so nothing is ever restored: CORE has no return from an error (R258, R261). -/
def raised (e : CoreError) (s : State) : State := s.ended e.statusWord

/-- `raise E(sub)` (R247): the command stops, and the host continues with its next operation (R258). -/
def raise (e : CoreError) (s : State) : Outcome := .next (raised e s)

/-- The first failing check of an ordered list: the one error a command reports (R250). -/
def firstFailing : List (Bool × CoreError) → Option CoreError
  | [] => none
  | (passes, e) :: rest => if passes then firstFailing rest else some e

/-- The state after a command with the ordered checks `checks` and the effect `effect` (the state it leaves but for STATUS): the
first failing check ends it with that error and no other effect (R67, R68, R247, R250); else the effect happens and STATUS says
so (R37). -/
def commandState (checks : List (Bool × CoreError)) (effect : State → State) (s : State) : State :=
  match firstFailing checks with
  | some e => raised e s
  | none => (effect s).ended doneStatus

/-- Run a command to completion, one atomic step (R70). It always ends (R279), with or without an error (R258). -/
def runCommand (checks : List (Bool × CoreError)) (effect : State → State) (s : State) : Outcome :=
  .next (commandState checks effect s)

end Sys2Proof.Machine
end

