-- ==== Sys2Proof/Machine/Operands.lean ====
section
/-! DEFINITION. The operand forms of the commands: exact arithmetic with `rnd` and `clamp` (spec/00_scope.md R16 to R18), pixels
(R20), layer descriptors (spec/10_state.md R48), and the buffers commands write (R50 to R54). -/

namespace Sys2Proof.Machine

/-! ## Exact arithmetic -/

/-- `rnd(q) = floor(q + 1/2)`: the nearest integer, a tie going to the larger (R17). -/
def rnd (q : Rat) : Int := (q + 1 / 2).floor

/-- `clamp(v, lo, hi)` (R18). -/
def clamp (v lo hi : Int) : Int := if v < lo then lo else if hi < v then hi else v

/-- An integer of 0 to 255 as a byte (R16: the caller's rule puts it in that range). -/
def byteOf (v : Int) : Byte := BitVec.ofInt 8 v

/-- An integer as a register value, modulo 2^32 (R216). -/
def wordOf (v : Int) : Word := BitVec.ofInt 32 v

/-- A Q16.16 word as the rational it stands for (R56). -/
def q16 (w : Word) : Rat := (u32 w : Rat) / 65536

/-! ## Pixels -/

/-- One canonical RGBA pixel: channels 0 red, 1 green, 2 blue, 3 alpha (R20, R50). -/
structure Pixel where
  r : Byte
  g : Byte
  b : Byte
  a : Byte
  deriving DecidableEq, Repr

/-- Transparent black (R228). -/
def Pixel.clear : Pixel := { r := 0, g := 0, b := 0, a := 0 }

/-- The four bytes of a pixel in memory order (R50). -/
def Pixel.bytes (p : Pixel) : List Byte := [p.r, p.g, p.b, p.a]

/-- The value of channel `c`, 0 to 3 (R20). -/
def Pixel.chan (p : Pixel) : Nat → Byte
  | 0 => p.r
  | 1 => p.g
  | 2 => p.b
  | _ => p.a

/-- The pixel each of whose channels is `f` of that channel's accessor: for the rules that treat the four channels alike. -/
def Pixel.each (f : (Pixel → Byte) → Byte) : Pixel :=
  { r := f Pixel.r, g := f Pixel.g, b := f Pixel.b, a := f Pixel.a }

/-- Pixel number `i` of the RGBA buffer at `p` (R50). -/
def Memory.rgba (m : Memory) (p i : Nat) : Pixel :=
  { r := m.read (p + 4 * i), g := m.read (p + 4 * i + 1), b := m.read (p + 4 * i + 2), a := m.read (p + 4 * i + 3) }

/-- `px(p, W, x, y, ·)`: pixel `(x, y)` of the image of width `w` at `p` (R20). -/
def Memory.px (m : Memory) (p w x y : Nat) : Pixel := m.rgba p (y * w + x)

/-- The RGBA buffer of the pixels `f 0` to `f (n-1)` (R50). -/
def pixelBytes (n : Nat) (f : Nat → Pixel) : List Byte := (List.range n).flatMap fun i => (f i).bytes

/-- The RGBA buffer of a `w` by `h` image, pixel `(x, y)` at index `y*w + x` (R20). -/
def imageBytes (w h : Nat) (f : Nat → Nat → Pixel) : List Byte := pixelBytes (w * h) fun i => f (i % w) (i / w)

/-- A buffer of `n` counts, each a 4-byte number, most significant byte first (R54). -/
def countBytes (n : Nat) (f : Nat → Nat) : List Byte := (List.range n).flatMap fun v => numBytes 4 (f v)

/-- The 7-bit luma of a GB7 byte: bits 6:0 (R51). -/
def luma7 (b : Byte) : Nat := b.toNat % 128

/-- The mask bit of a GB7 byte: bit 7; 1 means opaque (R51, R110). -/
def maskBit (b : Byte) : Bool := b.getLsbD 7

/-! ## Layer descriptors -/

/-- The three variants of a LayerImage (R48, KIND). -/
inductive LayerKind where
  | raster
  | gb7
  | flat
  deriving DecidableEq, Repr

/-- The four blend modes (R48, BLEND). -/
inductive BlendMode where
  | normal
  | multiply
  | screen
  | overlay
  deriving DecidableEq, Repr

/-- One LayerImage as its descriptor holds it (R48). -/
structure Layer where
  /-- KIND, `none` where the byte names no variant. -/
  kind : Option LayerKind
  hasAlpha : Bool
  alphaHidden : Bool
  alphaRemoved : Bool
  visible : Bool
  deleted : Bool
  blend : BlendMode
  /-- WIDTH, read as `s32`. -/
  width : Int
  /-- HEIGHT, read as `s32`. -/
  height : Int
  /-- DATA: an address (Raster, Gb7) or a colour (Flat). -/
  data : Word
  /-- OPACITY, the Q16.16 word. -/
  opacity : Word
  deriving DecidableEq, Repr

/-- The variant a KIND byte names (R48). -/
def layerKind (b : Byte) : Option LayerKind :=
  match b.toNat with
  | 0 => some .raster
  | 1 => some .gb7
  | 2 => some .flat
  | _ => none

/-- The blend mode in bits 1:0 of a BLEND byte; bits 7:2 are ignored (R48). -/
def blendMode (b : Byte) : BlendMode :=
  match b.getLsbD 1, b.getLsbD 0 with
  | false, false => .normal
  | false, true => .multiply
  | true, false => .screen
  | true, true => .overlay

/-- The size of a layer descriptor in bytes (R13, R48). -/
def descriptorSize : Nat := 32

/-- The layer descriptor at `p` (R48). Bytes 3 and 20 to 31, FLAGS bits 7:5 and BLEND bits 7:2 are not looked at (U10). -/
def Memory.layer (m : Memory) (p : Nat) : Layer :=
  { kind := layerKind (m.read p)
    hasAlpha := (m.read (p + 1)).getLsbD 0
    alphaHidden := (m.read (p + 1)).getLsbD 1
    alphaRemoved := (m.read (p + 1)).getLsbD 2
    visible := (m.read (p + 1)).getLsbD 3
    deleted := (m.read (p + 1)).getLsbD 4
    blend := blendMode (m.read (p + 2))
    width := s32 (m.readWord (p + 4))
    height := s32 (m.readWord (p + 8))
    data := m.readWord (p + 12)
    opacity := m.readWord (p + 16) }

/-- The layer table of `count` descriptors at `table`, index 0 the bottom layer (R49). -/
def Memory.layers (m : Memory) (table count : Nat) : List Layer :=
  (List.range count).map fun i => m.layer (table + descriptorSize * i)

/-- The number of pixels of a layer, `W*H`, exact (R57, R116). -/
def Layer.pixels (l : Layer) : Nat := (l.width * l.height).toNat

/-- The range of a layer's data: `W*H*4` bytes for Raster, `W*H` for Gb7, empty for Flat (R57, R106). -/
def Layer.dataRange (l : Layer) : Range :=
  match l.kind with
  | some .raster => { base := u32 l.data, len := 4 * l.pixels }
  | some .gb7 => { base := u32 l.data, len := l.pixels }
  | some .flat => { base := u32 l.data, len := 0 }
  | none => { base := u32 l.data, len := 0 }

/-- The layer's opacity, `min(u32(OPACITY), 65536)/65536` (R48, R229). -/
def Layer.op (l : Layer) : Rat := ((min (u32 l.opacity) 65536 : Nat) : Rat) / 65536

/-- `W > 0` and `H > 0`. -/
def Layer.positive (l : Layer) : Bool := decide (0 < l.width) && decide (0 < l.height)

end Sys2Proof.Machine
end

