-- ==== Sys2Proof/Machine/Normalizer.lean ====
section
/-! DEFINITION. The RGBA Normalizer: the pixel function `normPixel` and NORM (spec/40_normalizer.md R105 to R117). -/

namespace Sys2Proof.Machine

/-- A Flat layer's pixel: the colour 0x00RRGGBB of DATA, alpha 255 (R108). -/
def flatPixel (data : Word) : Pixel :=
  { r := data.extractLsb' 16 8, g := data.extractLsb' 8 8, b := data.extractLsb' 0 8, a := 255 }

/-- A Gb7 layer's pixel: grey `floor(luma7*255/127)`, and the mask bit as alpha if the layer declares a mask (R109, R110). -/
def gb7Pixel (hasAlpha : Bool) (byte : Byte) : Pixel :=
  let luma8 := byteOf (luma7 byte * 255 / 127 : Nat)
  { r := luma8, g := luma8, b := luma8, a := if hasAlpha then (if maskBit byte then 255 else 0) else 255 }

/-- The pixel a layer stores, before any forcing of alpha: the variants of R108 to R111. A layer whose KIND names no variant is
never normalized: NORM and GB7ENC refuse it (R106, R137) and RENDER skips it (R222). -/
def storedPixel (m : Memory) (l : Layer) (i : Nat) : Pixel :=
  match l.kind with
  | some .raster => m.rgba (u32 l.data) i
  | some .gb7 => gb7Pixel l.hasAlpha (m.read (u32 l.data + i))
  | some .flat => flatPixel l.data
  | none => Pixel.clear

/-- `normPixel(layer, i, fo)`: the stored pixel, its alpha forced to 255 if `fo`, `alphaHidden` or `alphaRemoved` (R107, R112). -/
def normPixel (m : Memory) (l : Layer) (fo : Bool) (i : Nat) : Pixel :=
  let p := storedPixel m l i
  if fo || l.alphaHidden || l.alphaRemoved then { p with a := 255 } else p

/-- `alphaOnly` mode: the alpha as an opaque grey (R113). -/
def alphaPicture (p : Pixel) : Pixel := { r := p.a, g := p.a, b := p.a, a := 255 }

/-- The descriptor range a command reads at A0. -/
def descriptorRange (s : State) : Range := { base := u32 s.a[0], len := descriptorSize }

/-- NORM's destination range (R105). -/
def normDest (s : State) : Range := { base := u32 s.a[1], len := 4 * (s.mem.layer (u32 s.a[0])).pixels }

/-- The checks of NORM, in order (R106; check (1) is the decoder's). -/
def normChecks (s : State) : List (Bool × CoreError) :=
  let l := s.mem.layer (u32 s.a[0])
  [ ((descriptorRange s).valid s.mem, .boundsDescriptor),
    (l.kind.isSome, .layerKind),
    (l.positive, .dimSource),
    (l.dataRange.valid s.mem, .boundsSource),
    ((normDest s).valid s.mem, .boundsDestination),
    (!(normDest s).meets (descriptorRange s) && !(normDest s).meets l.dataRange, .overlap) ]

/-- The pixel NORM writes at index `i` (R105). -/
def normOutput (ao fo : Bool) (s : State) (i : Nat) : Pixel :=
  let p := normPixel s.mem (s.mem.layer (u32 s.a[0])) fo i
  if ao then alphaPicture p else p

/-- The RGBA buffer NORM writes (R105). -/
def normBytes (ao fo : Bool) (s : State) : List Byte :=
  pixelBytes (s.mem.layer (u32 s.a[0])).pixels (normOutput ao fo s)

/-- NORM's results: R0 = W, R1 = H (R105). -/
def normResults (s : State) : Vector Word 6 :=
  setResults2 s.r (wordOf (s.mem.layer (u32 s.a[0])).width) (wordOf (s.mem.layer (u32 s.a[0])).height)

/-- NORM's effect (R105): the canonical RGBA buffer at A1, R0 = W, R1 = H. -/
def normEffect (ao fo : Bool) (s : State) : State :=
  s.wrote (u32 s.a[1]) (normBytes ao fo s) (normResults s)

/-- NORM (R105, R106). -/
def execNorm (ao fo : Bool) (s : State) : Outcome := runCommand (normChecks s) (normEffect ao fo) s

end Sys2Proof.Machine
end

