-- ==== Sys2Proof/Machine/Resampler.lean ====
section
/-! DEFINITION. The Resampler: RSNN and RSBL, and the two mappings RENDER shares with them (spec/44_resampler.md R200 to R209). -/

namespace Sys2Proof.Machine

/-- Nearest neighbour: destination pixel `(x, y)` is source pixel `(floor(x*SW/DW), floor(y*SH/DH))` (R202). -/
def nearest (src : Nat → Nat → Pixel) (sw sh dw dh x y : Nat) : Pixel := src (x * sw / dw) (y * sh / dh)

/-- The bilinear blend of one channel of the four neighbours, exact and rounded once (R207). -/
def bilinearBlend (tx ty : Rat) (p00 p10 p01 p11 : Byte) : Byte :=
  byteOf (rnd ((1 - tx) * (1 - ty) * (p00.toNat : Rat) + tx * (1 - ty) * (p10.toNat : Rat)
    + (1 - tx) * ty * (p01.toNat : Rat) + tx * ty * (p11.toNat : Rat)))

/-- Bilinear: `fx = x*(SW-1)/DW`, its floor and fraction, the neighbour clamped at the +1 edge, the same for `y`, every channel
alike (R204 to R207). -/
def bilinear (src : Nat → Nat → Pixel) (sw sh dw dh x y : Nat) : Pixel :=
  let x0 := x * (sw - 1) / dw
  let tx : Rat := ((x * (sw - 1) % dw : Nat) : Rat) / (dw : Rat)
  let x1 := min (x0 + 1) (sw - 1)
  let y0 := y * (sh - 1) / dh
  let ty : Rat := ((y * (sh - 1) % dh : Nat) : Rat) / (dh : Rat)
  let y1 := min (y0 + 1) (sh - 1)
  Pixel.each fun chan =>
    bilinearBlend tx ty (chan (src x0 y0)) (chan (src x1 y0)) (chan (src x0 y1)) (chan (src x1 y1))

/-- The source and target sizes of a resampling command as numbers of pixels; the checks refuse any that is not positive
(R200, R201). -/
structure ResampleSizes where
  sw : Nat
  sh : Nat
  dw : Nat
  dh : Nat
  deriving DecidableEq, Repr

/-- A1, A2 the source, A4, A5 the target, read as `s32` (R200). -/
def resampleSizes (s : State) : ResampleSizes :=
  { sw := (s32 s.a[1]).toNat, sh := (s32 s.a[2]).toNat, dw := (s32 s.a[4]).toNat, dh := (s32 s.a[5]).toNat }

/-- The source image at A0 (R200). -/
def resampleSource (s : State) (x y : Nat) : Pixel := s.mem.px (u32 s.a[0]) (resampleSizes s).sw x y

/-- The source range of RSNN and RSBL (R201). -/
def resampleRange (s : State) : Range :=
  { base := u32 s.a[0], len := 4 * ((resampleSizes s).sw * (resampleSizes s).sh) }

/-- The destination range of RSNN and RSBL (R200, R201). -/
def resampleDest (s : State) : Range :=
  { base := u32 s.a[3], len := 4 * ((resampleSizes s).dw * (resampleSizes s).dh) }

/-- The checks of RSNN and RSBL, in order: the target first (R201; check (1) is the decoder's). -/
def resampleChecks (s : State) : List (Bool × CoreError) :=
  [ (decide (0 < s32 s.a[4]) && decide (0 < s32 s.a[5]), .dimTarget),
    (decide (0 < s32 s.a[1]) && decide (0 < s32 s.a[2]), .dimSource),
    ((resampleRange s).valid s.mem, .boundsSource),
    ((resampleDest s).valid s.mem, .boundsDestination),
    (!(resampleDest s).meets (resampleRange s), .overlap) ]

/-- The pixel RSNN writes at `(x, y)` (R202). -/
def rsnnOutput (s : State) : Nat → Nat → Pixel :=
  let z := resampleSizes s
  nearest (resampleSource s) z.sw z.sh z.dw z.dh

/-- The pixel RSBL writes at `(x, y)` (R204). -/
def rsblOutput (s : State) : Nat → Nat → Pixel :=
  let z := resampleSizes s
  bilinear (resampleSource s) z.sw z.sh z.dw z.dh

/-- The RGBA buffer RSNN writes (R202). -/
def rsnnBytes (s : State) : List Byte := imageBytes (resampleSizes s).dw (resampleSizes s).dh (rsnnOutput s)

/-- The RGBA buffer RSBL writes (R204). -/
def rsblBytes (s : State) : List Byte := imageBytes (resampleSizes s).dw (resampleSizes s).dh (rsblOutput s)

/-- RSNN's effect (R202). -/
def rsnnEffect (s : State) : State := s.wrote (u32 s.a[3]) (rsnnBytes s) s.r

/-- RSBL's effect (R204). -/
def rsblEffect (s : State) : State := s.wrote (u32 s.a[3]) (rsblBytes s) s.r

/-- RSNN (R201, R202). -/
def execRsnn (s : State) : Outcome := runCommand (resampleChecks s) rsnnEffect s

/-- RSBL (R201, R204). -/
def execRsbl (s : State) : Outcome := runCommand (resampleChecks s) rsblEffect s

end Sys2Proof.Machine
end

