-- ==== Sys2Proof/Machine/Compositor.lean ====
section
/-! DEFINITION. The Layer Compositor: RENDER (spec/45_compositor.md R215 to R238). -/

namespace Sys2Proof.Machine

/-! ## Blending -/

/-- The blend functions on normalized channels, backdrop `cb` and source `cs` (R230). -/
def blend (mode : BlendMode) (cb cs : Rat) : Rat :=
  match mode with
  | .normal => cs
  | .multiply => cb * cs
  | .screen => cb + cs - cb * cs
  | .overlay => if cb ≤ 1 / 2 then 2 * cb * cs else 1 - 2 * (1 - cb) * (1 - cs)

/-- A channel byte as a number of `[0, 1]` (R229). -/
def unit (v : Byte) : Rat := (v.toNat : Rat) / 255

/-- The compositing step: the source pixel `s` at opacity `op` over the accumulator pixel `b`, exact, each channel rounded once
(R229, R232). -/
def composite (mode : BlendMode) (op : Rat) (b s : Pixel) : Pixel :=
  let sa := unit s.a * op
  let ba := unit b.a
  let oa := sa + ba * (1 - sa)
  if oa = 0 then Pixel.clear
  else
    let out := fun (backdrop source : Byte) =>
      let cb := unit backdrop
      let cs := unit source
      let cm := (1 - ba) * cs + ba * blend mode cb cs
      byteOf (rnd (255 * ((sa * cm + (1 - sa) * ba * cb) / oa)))
    { r := out b.r s.r, g := out b.g s.g, b := out b.b s.b, a := byteOf (rnd (255 * oa)) }

/-! ## Geometry -/

/-- The scale `S`, the exact product of baseScale and contentScale (R218). -/
def renderScale (s : State) : Rat := q16 s.a[3] * q16 s.a[2]

/-- The layer stack of RENDER's operands, bottom first (R215, R49). -/
def renderLayers (s : State) : List Layer := s.mem.layers (u32 s.a[0]) (u32 s.a[1])

/-- One side of the canvas: `max(0, rnd(side * S))` (R219). -/
def canvasSide (scale : Rat) (side : Int) : Nat := (rnd ((side : Rat) * scale)).toNat

/-- The canvas size, width and height, of a layer stack: from the first layer that is not deleted, 0 by 0 if there is none
(R219). -/
def canvasSize (scale : Rat) (layers : List Layer) : Nat × Nat :=
  match layers.find? fun l => !l.deleted with
  | some l => (canvasSide scale l.width, canvasSide scale l.height)
  | none => (0, 0)

/-- The canvas width of RENDER (R219). -/
def canvasW (s : State) : Nat := (canvasSize (renderScale s) (renderLayers s)).1

/-- The canvas height of RENDER (R219). -/
def canvasH (s : State) : Nat := (canvasSize (renderScale s) (renderLayers s)).2

/-- The layer table's range (R217). -/
def tableRange (s : State) : Range := { base := u32 s.a[0], len := descriptorSize * u32 s.a[1] }

/-- RENDER's destination range (R217). -/
def renderDest (s : State) : Range := { base := u32 s.a[4], len := 4 * (canvasW s * canvasH s) }

/-- Where a layer is drawn: its scaled size and its offset in the canvas (R223, R226). -/
structure Placement where
  dx : Int
  dy : Int
  drawW : Int
  drawH : Int
  deriving DecidableEq, Repr

/-- The placement RENDER reports when it drew no layer (R216). -/
def Placement.zero : Placement := { dx := 0, dy := 0, drawW := 0, drawH := 0 }

/-- A layer's draw size under the canvas's scale, centred in the canvas with offsets rounded toward minus infinity (R223, R226). -/
def place (scale : Rat) (cw ch : Nat) (l : Layer) : Placement :=
  let dw := rnd ((l.width : Rat) * scale)
  let dh := rnd ((l.height : Rat) * scale)
  { dx := Int.fdiv ((cw : Int) - dw) 2, dy := Int.fdiv ((ch : Int) - dh) 2, drawW := dw, drawH := dh }

/-- A layer that is malformed: no variant, a size that is not positive, data outside the memory or under the destination (R222). -/
def malformed (m : Memory) (dest : Range) (l : Layer) : Bool :=
  !l.kind.isSome || !l.positive || !l.dataRange.valid m || l.dataRange.meets dest

/-- The layer passes every skip of R215: not deleted, visible, not malformed, with a draw size that is not empty (R220, R222,
R223). -/
def isDrawn (s : State) (l : Layer) : Bool :=
  let p := place (renderScale s) (canvasW s) (canvasH s) l
  !l.deleted && l.visible && !malformed s.mem (renderDest s) l && decide (0 < p.drawW) && decide (0 < p.drawH)

/-- The layers RENDER draws, bottom first (R215, R220). -/
def drawnLayers (s : State) : List Layer := (renderLayers s).filter (isDrawn s)

/-- Pixel `(u, v)` of a drawn layer: its normalized pixels resampled to the draw size with the selected interpolation (R224,
R225). -/
def layerPixel (m : Memory) (bl : Bool) (l : Layer) (dw dh u v : Nat) : Pixel :=
  let w := l.width.toNat
  let h := l.height.toNat
  let src := fun x y => normPixel m l false (y * w + x)
  if bl then bilinear src w h dw dh u v else nearest src w h dw dh u v

/-- One layer drawn on the canvas pixel `(cx, cy)` with value `acc`: composited if the layer lands there, else unchanged (R215,
R227). -/
def drawOn (s : State) (bl : Bool) (cx cy : Nat) (acc : Pixel) (l : Layer) : Pixel :=
  let p := place (renderScale s) (canvasW s) (canvasH s) l
  let u := (cx : Int) - p.dx
  let v := (cy : Int) - p.dy
  if 0 ≤ u ∧ u < p.drawW ∧ 0 ≤ v ∧ v < p.drawH then
    composite l.blend l.op acc (layerPixel s.mem bl l p.drawW.toNat p.drawH.toNat u.toNat v.toNat)
  else acc

/-- The final accumulator at canvas pixel `(cx, cy)`: transparent black, then every drawn layer in order (R215, R220, R228). A
layer's step on a canvas pixel reads that accumulator pixel and no other, so the loop over layers can stand inside the loop
over pixels (DEDUCED, log 10). -/
def canvasPixel (s : State) (bl : Bool) (cx cy : Nat) : Pixel := (drawnLayers s).foldl (drawOn s bl cx cy) Pixel.clear

/-- `last` of R215: the placement of the last drawn layer, zeros if there is none (R216). -/
def lastPlacement (s : State) : Placement :=
  match (drawnLayers s).getLast? with
  | some l => place (renderScale s) (canvasW s) (canvasH s) l
  | none => Placement.zero

/-! ## The command -/

/-- The checks of RENDER, in order (R217; check (1) is the decoder's). No check looks at a single layer (R222). -/
def renderChecks (s : State) : List (Bool × CoreError) :=
  [ ((tableRange s).valid s.mem, .boundsDescriptor),
    ((renderDest s).valid s.mem, .boundsDestination),
    (!(renderDest s).meets (tableRange s), .overlap) ]

/-- The six results of RENDER (R216). -/
def renderResults (s : State) : Vector Word 6 :=
  let p := lastPlacement s
  #v[wordOf (canvasW s), wordOf (canvasH s), wordOf p.dx, wordOf p.dy, wordOf p.drawW, wordOf p.drawH]

/-- The RGBA buffer RENDER writes: the final accumulator (R215, R233). -/
def renderBytes (bl : Bool) (s : State) : List Byte := imageBytes (canvasW s) (canvasH s) (canvasPixel s bl)

/-- RENDER's effect (R215, R233): the accumulator at A4 and the six results. -/
def renderEffect (bl : Bool) (s : State) : State := s.wrote (u32 s.a[4]) (renderBytes bl s) (renderResults s)

/-- RENDER (R215, R217). -/
def execRender (bl : Bool) (s : State) : Outcome := runCommand (renderChecks s) (renderEffect bl) s

end Sys2Proof.Machine
end

