-- ==== Sys2Proof/Machine/Convolution.lean ====
section
/-! DEFINITION. The Convolution Engine: CONVRGB and CONVA over one helper (spec/43_convolution.md R180 to R194). -/

namespace Sys2Proof.Machine

/-- An effective kernel: nine row-major coefficients, divisor and bias (R181). -/
structure Kernel where
  coef : Vector Int 9
  div : Int
  bias : Int
  deriving DecidableEq, Repr

/-- The divisor by R184: the given one if it is not 0, else the sum of the coefficients if that is not 0, else 1. -/
def kernelDivisor (given : Int) (coef : Vector Int 9) : Int :=
  let sum := coef.toList.sum
  if given ≠ 0 then given else if sum ≠ 0 then sum else 1

/-- The custom kernel: K0 to K8, KDIV and KBIAS, all read as `s32` (R184, R185, R188). -/
def customKernel (s : State) : Kernel :=
  let coef := s.k.map s32
  { coef := coef, div := kernelDivisor (s32 s.kdiv) coef, bias := s32 s.kbias }

/-- The kernel KSEL selects (R188); the preset rows are R187's. The reserved value never gets here (R88). -/
def selectKernel (s : State) : KernelSel → Kernel
  | .custom => customKernel s
  | .identity => { coef := #v[0, 0, 0, 0, 1, 0, 0, 0, 0], div := 1, bias := 0 }
  | .sharpen => { coef := #v[0, -1, 0, -1, 5, -1, 0, -1, 0], div := 1, bias := 0 }
  | .gaussian => { coef := #v[1, 2, 1, 2, 4, 2, 1, 2, 1], div := 16, bias := 0 }
  | .boxBlur => { coef := #v[1, 1, 1, 1, 1, 1, 1, 1, 1], div := 9, bias := 0 }
  | .prewittX => { coef := #v[-1, 0, 1, -1, 0, 1, -1, 0, 1], div := 1, bias := 128 }
  | .prewittY => { coef := #v[-1, -1, -1, 0, 0, 0, 1, 1, 1], div := 1, bias := 128 }
  | .reserved7 => { coef := #v[0, 0, 0, 0, 1, 0, 0, 0, 0], div := 1, bias := 0 }

/-- The width operand A1 as a number of pixels; the checks refuse one that is not positive (R189, R191). -/
def convWidth (s : State) : Nat := (s32 s.a[1]).toNat

/-- The height operand A2 as a number of pixels; the checks refuse one that is not positive (R189, R191). -/
def convHeight (s : State) : Nat := (s32 s.a[2]).toNat

/-- Clamp-to-edge sampling: the pixel at the nearest valid column and row (R180). -/
def sample (m : Memory) (p w h : Nat) (x y : Int) : Pixel :=
  m.px p w (clamp x 0 (w - 1)).toNat (clamp y 0 (h - 1)).toNat

/-- `acc` of R182 for the channel `chan` at `(x, y)`: coefficient `k` weighs the neighbour at `(k mod 3 - 1, k div 3 - 1)`, so
`k = 3*(dy+1) + (dx+1)` (R181). -/
def convAcc (m : Memory) (p w h : Nat) (ker : Kernel) (chan : Pixel → Byte) (x y : Nat) : Int :=
  ((List.finRange 9).map fun k =>
    ker.coef[k] * ((chan (sample m p w h ((x : Int) + (k.val % 3 : Nat) - 1) ((y : Int) + (k.val / 3 : Nat) - 1))).toNat : Int)).sum

/-- `convolveChannel` at `(x, y)`: divide, round, add the bias, clamp (R182, R183). -/
def convolveChannel (m : Memory) (p w h : Nat) (ker : Kernel) (chan : Pixel → Byte) (x y : Nat) : Byte :=
  byteOf (clamp (rnd ((convAcc m p w h ker chan x y : Rat) / (ker.div : Rat)) + ker.bias) 0 255)

/-- The source range of CONVRGB and CONVA (R191). -/
def convSource (s : State) : Range := { base := u32 s.a[0], len := 4 * (convWidth s * convHeight s) }

/-- The destination range of CONVRGB and CONVA (R189, R190, R191). -/
def convDest (s : State) : Range := { base := u32 s.a[3], len := 4 * (convWidth s * convHeight s) }

/-- The checks of CONVRGB and CONVA, in order (R191); the first is the reserved KSEL value of R88, which the decoder refuses
already. -/
def convChecks (ksel : KernelSel) (s : State) : List (Bool × CoreError) :=
  [ (ksel.legal, .illegalCommand .reservedField),
    (decide (0 < s32 s.a[1]) && decide (0 < s32 s.a[2]), .dimSource),
    ((convSource s).valid s.mem, .boundsSource),
    ((convDest s).valid s.mem, .boundsDestination),
    (!(convDest s).meets (convSource s), .overlap) ]

/-- The pixel CONVRGB writes at `(x, y)`: the kernel on channels 0, 1, 2, the alpha copied (R189). -/
def convrgbOutput (ksel : KernelSel) (s : State) (x y : Nat) : Pixel :=
  let c := fun chan => convolveChannel s.mem (u32 s.a[0]) (convWidth s) (convHeight s) (selectKernel s ksel) chan x y
  { r := c Pixel.r, g := c Pixel.g, b := c Pixel.b, a := (s.mem.px (u32 s.a[0]) (convWidth s) x y).a }

/-- The pixel CONVA writes at `(x, y)`: the kernel on channel 3, the colour copied (R190). -/
def convaOutput (ksel : KernelSel) (s : State) (x y : Nat) : Pixel :=
  { s.mem.px (u32 s.a[0]) (convWidth s) x y with
    a := convolveChannel s.mem (u32 s.a[0]) (convWidth s) (convHeight s) (selectKernel s ksel) Pixel.a x y }

/-- The RGBA buffer CONVRGB writes (R189). -/
def convrgbBytes (ksel : KernelSel) (s : State) : List Byte :=
  imageBytes (convWidth s) (convHeight s) (convrgbOutput ksel s)

/-- The RGBA buffer CONVA writes (R190). -/
def convaBytes (ksel : KernelSel) (s : State) : List Byte :=
  imageBytes (convWidth s) (convHeight s) (convaOutput ksel s)

/-- CONVRGB's effect (R189). -/
def convrgbEffect (ksel : KernelSel) (s : State) : State := s.wrote (u32 s.a[3]) (convrgbBytes ksel s) s.r

/-- CONVA's effect (R190). -/
def convaEffect (ksel : KernelSel) (s : State) : State := s.wrote (u32 s.a[3]) (convaBytes ksel s) s.r

/-- CONVRGB (R189, R191). -/
def execConvrgb (ksel : KernelSel) (s : State) : Outcome := runCommand (convChecks ksel s) (convrgbEffect ksel) s

/-- CONVA (R190, R191). -/
def execConva (ksel : KernelSel) (s : State) : Outcome := runCommand (convChecks ksel s) (convaEffect ksel) s

end Sys2Proof.Machine
end

