-- ==== Sys2Proof/Machine/CurveEngine.lean ====
section
/-! DEFINITION. The Curve Engine: LUTBUILD, CURVE, CURVEG7, HIST, HISTG7 (spec/42_curve_engine.md R145 to R176). -/

namespace Sys2Proof.Machine

/-! ## LUTBUILD -/

/-- `max` of the LUT's domain: 127 if D7, else 255 (R145). -/
def domainMax (d7 : Bool) : Nat := if d7 then 127 else 255

/-- The two curve points, clamped to `[0, max]` and in rising order of x (R147, R148). -/
structure CurvePoints where
  x1 : Int
  y1 : Int
  x2 : Int
  y2 : Int
  deriving DecidableEq, Repr

/-- The points of LUTBUILD's operands: clamped, then swapped as pairs if `x1 > x2` (R145, R147, R148). -/
def curvePoints (max : Nat) (x1 y1 x2 y2 : Int) : CurvePoints :=
  let p : CurvePoints :=
    { x1 := clamp x1 0 max, y1 := clamp y1 0 max, x2 := clamp x2 0 max, y2 := clamp y2 0 max }
  if p.x1 > p.x2 then { x1 := p.x2, y1 := p.y2, x2 := p.x1, y2 := p.y1 } else p

/-- The value at `x` of the segment from `(xa, ya)` to `(xb, yb)`; the right end point's y where the span is zero (R151). -/
def seg (xa ya xb yb x : Int) : Rat :=
  if xb = xa then (yb : Rat) else (ya : Rat) + (yb - ya : Int) * (x - xa : Int) / (xb - xa : Int)

/-- The curve's value at `x`: the first of the three segments whose right end is not left of `x` (R149, R150). -/
def curveValue (max : Nat) (p : CurvePoints) (x : Int) : Rat :=
  if x ≤ p.x1 then seg 0 0 p.x1 p.y1 x
  else if x ≤ p.x2 then seg p.x1 p.y1 p.x2 p.y2 x
  else seg p.x2 p.y2 max max x

/-- The LUT entry at `x`: rounded and clamped (R152). -/
def lutEntry (max : Nat) (p : CurvePoints) (x : Nat) : Byte := byteOf (clamp (rnd (curveValue max p x)) 0 max)

/-- LUTBUILD's destination range (R145, R146). -/
def lutbuildDest (d7 : Bool) (s : State) : Range := { base := u32 s.a[4], len := domainMax d7 + 1 }

/-- The checks of LUTBUILD, in order (R146; check (1) is the decoder's). -/
def lutbuildChecks (d7 : Bool) (s : State) : List (Bool × CoreError) :=
  [ ((lutbuildDest d7 s).valid s.mem, .boundsDestination) ]

/-- LUTBUILD's points, from A0 to A3 read as `s32` (R145). -/
def lutbuildPoints (d7 : Bool) (s : State) : CurvePoints :=
  curvePoints (domainMax d7) (s32 s.a[0]) (s32 s.a[1]) (s32 s.a[2]) (s32 s.a[3])

/-- The `max + 1` LUT entries LUTBUILD writes (R145). -/
def lutbuildBytes (d7 : Bool) (s : State) : List Byte :=
  (List.range (domainMax d7 + 1)).map (lutEntry (domainMax d7) (lutbuildPoints d7 s))

/-- LUTBUILD's effect (R145): the `max + 1` entries at A4. -/
def lutbuildEffect (d7 : Bool) (s : State) : State := s.wrote (u32 s.a[4]) (lutbuildBytes d7 s) s.r

/-- LUTBUILD (R145, R146). -/
def execLutbuild (d7 : Bool) (s : State) : Outcome := runCommand (lutbuildChecks d7 s) (lutbuildEffect d7) s

/-! ## CURVE -/

/-- The pixel count `N`, A1 read as `s32`, as a number of pixels; the checks refuse a count that is not positive (R155, R156). -/
def pixelCount (s : State) : Nat := (s32 s.a[1]).toNat

/-- The source range of `bpp*N` bytes at A0 (R156, R161, R171, R175). -/
def countedSource (bpp : Nat) (s : State) : Range := { base := u32 s.a[0], len := bpp * pixelCount s }

/-- CURVE's destination range (R155, R156). -/
def curveDest (s : State) : Range := { base := u32 s.a[2], len := 4 * pixelCount s }

/-- A LUT of `len` bytes at `p` if it is provided, else the empty range, which is valid everywhere and meets nothing (R66, R69):
a LUT that is not provided is not read and not checked (R155). -/
def lutRange (provided : Bool) (p : Word) (len : Nat) : Range := { base := u32 p, len := if provided then len else 0 }

/-- The checks of CURVE, in order (R156; check (1) is the decoder's). -/
def curveChecks (lr lg lb la : Bool) (s : State) : List (Bool × CoreError) :=
  [ (decide (0 < s32 s.a[1]), .dimSource),
    ((countedSource 4 s).valid s.mem, .boundsSource),
    ((lutRange lr s.a[3] 256).valid s.mem, .boundsLut),
    ((lutRange lg s.a[4] 256).valid s.mem, .boundsLut),
    ((lutRange lb s.a[5] 256).valid s.mem, .boundsLut),
    ((lutRange la s.a[6] 256).valid s.mem, .boundsLut),
    ((curveDest s).valid s.mem, .boundsDestination),
    (!(curveDest s).meets (countedSource 4 s) && !(curveDest s).meets (lutRange lr s.a[3] 256)
      && !(curveDest s).meets (lutRange lg s.a[4] 256) && !(curveDest s).meets (lutRange lb s.a[5] 256)
      && !(curveDest s).meets (lutRange la s.a[6] 256), .overlap) ]

/-- A channel value through its LUT at `p`, or unchanged where none is provided (R155). -/
def curveChannel (m : Memory) (provided : Bool) (p : Word) (v : Byte) : Byte :=
  if provided then m.read (u32 p + v.toNat) else v

/-- The pixel CURVE writes at index `i` (R155). -/
def curveOutput (lr lg lb la : Bool) (s : State) (i : Nat) : Pixel :=
  let p := s.mem.rgba (u32 s.a[0]) i
  { r := curveChannel s.mem lr s.a[3] p.r
    g := curveChannel s.mem lg s.a[4] p.g
    b := curveChannel s.mem lb s.a[5] p.b
    a := curveChannel s.mem la s.a[6] p.a }

/-- The RGBA buffer CURVE writes (R155). -/
def curveBytes (lr lg lb la : Bool) (s : State) : List Byte := pixelBytes (pixelCount s) (curveOutput lr lg lb la s)

/-- CURVE's effect (R155). -/
def curveEffect (lr lg lb la : Bool) (s : State) : State :=
  s.wrote (u32 s.a[2]) (curveBytes lr lg lb la s) s.r

/-- CURVE (R155, R156). -/
def execCurve (lr lg lb la : Bool) (s : State) : Outcome :=
  runCommand (curveChecks lr lg lb la s) (curveEffect lr lg lb la) s

/-! ## CURVEG7 -/

/-- CURVEG7's destination range (R160, R161). -/
def curveg7Dest (s : State) : Range := { base := u32 s.a[2], len := pixelCount s }

/-- The checks of CURVEG7, in order (R161); the first is the reserved CMB value of R88, which the decoder refuses already. -/
def curveg7Checks (yl : Bool) (cmb : Combine) (s : State) : List (Bool × CoreError) :=
  [ (cmb.legal, .illegalCommand .reservedField),
    (decide (0 < s32 s.a[1]), .dimSource),
    ((countedSource 1 s).valid s.mem, .boundsSource),
    ((lutRange yl s.a[3] 128).valid s.mem, .boundsLut),
    ((curveg7Dest s).valid s.mem, .boundsDestination),
    (!(curveg7Dest s).meets (countedSource 1 s) && !(curveg7Dest s).meets (lutRange yl s.a[3] 128), .overlap) ]

/-- The new luma, 0 to 255: the `yLut` entry at the byte's luma, or that luma (R160, R162, R164). -/
def newLuma (m : Memory) (yl : Bool) (ylut : Word) (byte : Byte) : Nat :=
  if yl then (m.read (u32 ylut + luma7 byte)).toNat else luma7 byte

/-- The threshold bit: 1 iff the pixel passes the test (R165). -/
def thresholdBit (inv : Bool) (luma : Nat) (th : Int) : Bool :=
  if inv then decide ((luma : Int) < th) else decide (th ≤ (luma : Int))

/-- `combine` of the byte's own mask bit and the threshold bit (R166). The reserved value never gets here (R88). -/
def combineBits (cmb : Combine) (aBit thBit : Bool) : Bool :=
  match cmb with
  | .and => aBit && thBit
  | .replace => thBit
  | .or => aBit || thBit
  | .reserved3 => aBit

/-- The output mask bit by alpha mode (R160, R163, R165). -/
def alphaBit (am : AlphaMode) (inv : Bool) (cmb : Combine) (th : Int) (aBit : Bool) (luma : Nat) : Bool :=
  match am with
  | .preserve => aBit
  | .opaque => true
  | .transparent => false
  | .threshold => combineBits cmb aBit (thresholdBit inv luma th)

/-- A GB7 byte of a mask bit and the low seven bits of a luma (R167). -/
def gb7Byte (mask : Bool) (luma : Nat) : Byte := BitVec.ofNat 8 ((if mask then 128 else 0) + luma % 128)

/-- The byte CURVEG7 writes for the source byte `byte` (R160). -/
def curveg7Byte (yl : Bool) (am : AlphaMode) (inv : Bool) (cmb : Combine) (s : State) (byte : Byte) : Byte :=
  let luma := newLuma s.mem yl s.a[3] byte
  gb7Byte (alphaBit am inv cmb (s32 s.a[4]) (maskBit byte) luma) luma

/-- The packed bytes CURVEG7 writes (R160). -/
def curveg7Bytes (yl : Bool) (am : AlphaMode) (inv : Bool) (cmb : Combine) (s : State) : List Byte :=
  (List.range (pixelCount s)).map fun i => curveg7Byte yl am inv cmb s (s.mem.read (u32 s.a[0] + i))

/-- CURVEG7's effect (R160). -/
def curveg7Effect (yl : Bool) (am : AlphaMode) (inv : Bool) (cmb : Combine) (s : State) : State :=
  s.wrote (u32 s.a[2]) (curveg7Bytes yl am inv cmb s) s.r

/-- CURVEG7 (R160, R161). -/
def execCurveg7 (yl : Bool) (am : AlphaMode) (inv : Bool) (cmb : Combine) (s : State) : Outcome :=
  runCommand (curveg7Checks yl cmb s) (curveg7Effect yl am inv cmb) s

/-! ## HIST and HISTG7 -/

/-- How many of the `n` source items have the property `p`. -/
def countItems (n : Nat) (p : Nat → Bool) : Nat := (List.range n).countP p

/-- The count of pixels of the RGBA buffer at A0 whose channel `c` has the value `v` (R169). -/
def channelCount (s : State) (c v : Nat) : Nat :=
  countItems (pixelCount s) fun i => decide ((s.mem.read (u32 s.a[0] + 4 * i + c)).toNat = v)

/-- HIST's destination range: three blocks of 1024 bytes, or one (R170, R171). -/
def histDest (ao : Bool) (s : State) : Range := { base := u32 s.a[2], len := if ao then 1024 else 3072 }

/-- The checks of HIST, in order (R171; check (1) is the decoder's). -/
def histChecks (ao : Bool) (s : State) : List (Bool × CoreError) :=
  [ (decide (0 < s32 s.a[1]), .dimSource),
    ((countedSource 4 s).valid s.mem, .boundsSource),
    ((histDest ao s).valid s.mem, .boundsDestination),
    (!(histDest ao s).meets (countedSource 4 s), .overlap) ]

/-- The bytes HIST writes: the red, green and blue blocks, or the alpha block, 256 counts each (R169, R170). -/
def histBytes (ao : Bool) (s : State) : List Byte :=
  if ao then countBytes 256 (channelCount s 3)
  else countBytes 256 (channelCount s 0) ++ countBytes 256 (channelCount s 1) ++ countBytes 256 (channelCount s 2)

/-- HIST's effect (R169). -/
def histEffect (ao : Bool) (s : State) : State := s.wrote (u32 s.a[2]) (histBytes ao s) s.r

/-- HIST (R169, R171). -/
def execHist (ao : Bool) (s : State) : Outcome := runCommand (histChecks ao s) (histEffect ao) s

/-- The count of GB7 bytes at A0 whose luma is `v` (R173). -/
def lumaCount (s : State) (v : Nat) : Nat :=
  countItems (pixelCount s) fun i => decide (luma7 (s.mem.read (u32 s.a[0] + i)) = v)

/-- The count of GB7 bytes at A0 whose mask bit is `bit` (R173). -/
def maskCount (s : State) (bit : Bool) : Nat :=
  countItems (pixelCount s) fun i => maskBit (s.mem.read (u32 s.a[0] + i)) == bit

/-- HISTG7's destination range, 520 bytes (R174, R175). -/
def histg7Dest (s : State) : Range := { base := u32 s.a[2], len := 520 }

/-- The checks of HISTG7, in order (R175; check (1) is the decoder's). -/
def histg7Checks (s : State) : List (Bool × CoreError) :=
  [ (decide (0 < s32 s.a[1]), .dimSource),
    ((countedSource 1 s).valid s.mem, .boundsSource),
    ((histg7Dest s).valid s.mem, .boundsDestination),
    (!(histg7Dest s).meets (countedSource 1 s), .overlap) ]

/-- The bytes HISTG7 writes: 128 luma counts, then `alpha[0]` and `alpha[1]` (R173, R174). -/
def histg7Bytes (s : State) : List Byte :=
  countBytes 128 (lumaCount s) ++ numBytes 4 (maskCount s false) ++ numBytes 4 (maskCount s true)

/-- HISTG7's effect (R173). -/
def histg7Effect (s : State) : State := s.wrote (u32 s.a[2]) (histg7Bytes s) s.r

/-- HISTG7 (R173, R175). -/
def execHistg7 (s : State) : Outcome := runCommand (histg7Checks s) histg7Effect s

end Sys2Proof.Machine
end

