-- ==== Sys2Proof/Machine/Gb7Codec.lean ====
section
/-! DEFINITION. The GB7 Codec: GB7DEC and GB7ENC (spec/41_gb7_codec.md R120 to R141). -/

namespace Sys2Proof.Machine

/-- The header's length (R120). -/
def gb7HeaderSize : Nat := 12

/-- The magic number of a GB7 file (R120). -/
def gb7Magic : Nat := 0x4742371D

/-! ## GB7DEC -/

/-- The width field of the file at A0 (R120, R122). -/
def gb7Width (s : State) : Nat := s.mem.readNum (u32 s.a[0] + 6) 2

/-- The height field of the file at A0 (R120, R122). -/
def gb7Height (s : State) : Nat := s.mem.readNum (u32 s.a[0] + 8) 2

/-- The file range `[A0, A0 + LEN)` (R122, R123). -/
def gb7File (s : State) : Range := { base := u32 s.a[0], len := u32 s.a[1] }

/-- GB7DEC's destination range (R122, R123). -/
def gb7decDest (s : State) : Range := { base := u32 s.a[2], len := gb7Width s * gb7Height s }

/-- The checks of GB7DEC, in order (R123; check (1) is the decoder's). The reserved bytes, the flag bits 7:1 and the bytes after
the payload are not looked at (R126). -/
def gb7decChecks (s : State) : List (Bool × CoreError) :=
  [ ((gb7File s).valid s.mem, .boundsSource),
    (decide (gb7HeaderSize ≤ u32 s.a[1]), .formatShort),
    (decide (s.mem.readNum (u32 s.a[0]) 4 = gb7Magic), .formatMagic),
    (decide (s.mem.read (u32 s.a[0] + 4) = 1), .formatVersion),
    (decide (gb7HeaderSize + gb7Width s * gb7Height s ≤ u32 s.a[1]), .formatTruncated),
    ((gb7decDest s).valid s.mem, .boundsDestination),
    (!(gb7decDest s).meets (gb7File s), .overlap) ]

/-- The packed pixel bytes GB7DEC writes (R122). -/
def gb7decBytes (s : State) : List Byte :=
  s.mem.readBytes (u32 s.a[0] + gb7HeaderSize) (gb7Width s * gb7Height s)

/-- GB7DEC's results: R0 = W, R1 = H, R2 = bit 0 of the flags byte (R122, R127). -/
def gb7decResults (s : State) : Vector Word 6 :=
  setResults3 s.r (wordOf (gb7Width s)) (wordOf (gb7Height s))
    (if (s.mem.read (u32 s.a[0] + 5)).getLsbD 0 then 1 else 0)

/-- GB7DEC's effect (R122): the packed bytes at A2 and the results. -/
def gb7decEffect (s : State) : State := s.wrote (u32 s.a[2]) (gb7decBytes s) (gb7decResults s)

/-- GB7DEC (R122, R123). -/
def execGb7dec (s : State) : Outcome := runCommand (gb7decChecks s) gb7decEffect s

/-! ## GB7ENC -/

/-- The BT.709 luma of a pixel, 0 to 255 (R132). -/
def bt709Luma (p : Pixel) : Int :=
  rnd (((2126 * p.r.toNat + 7152 * p.g.toNat + 722 * p.b.toNat : Nat) : Rat) / 10000)

/-- The 7-bit quantization of an 8-bit luma (R133). -/
def quantizeLuma (luma8 : Int) : Int := clamp (rnd ((luma8 : Rat) * 127 / 255)) 0 127

/-- The mask bit the encoder gives a pixel: its alpha is at least 128 (R134). -/
def encodedMask (p : Pixel) : Bool := decide (128 ≤ p.a.toNat)

/-- The GB7 byte of a canonical pixel, `128*m + luma7` (R130). -/
def encodePixel (p : Pixel) : Byte := byteOf ((if encodedMask p then 128 else 0) + quantizeLuma (bt709Luma p))

/-- The header's has-mask flag: at least one pixel is transparent (R135). -/
def hasMask (n : Nat) (f : Nat → Pixel) : Bool := (List.range n).any fun i => !encodedMask (f i)

/-- The twelve header bytes the encoder writes (R136). -/
def gb7Header (mask : Bool) (w h : Nat) : List Byte :=
  numBytes 4 gb7Magic ++ [1, if mask then 1 else 0] ++ numBytes 2 w ++ numBytes 2 h ++ numBytes 2 0

/-- GB7ENC's destination range, `12 + W*H` bytes (R130, R137). -/
def gb7encDest (s : State) : Range :=
  { base := u32 s.a[1], len := gb7HeaderSize + (s.mem.layer (u32 s.a[0])).pixels }

/-- The checks of GB7ENC, in order (R137; check (1) is the decoder's). -/
def gb7encChecks (s : State) : List (Bool × CoreError) :=
  let l := s.mem.layer (u32 s.a[0])
  [ ((descriptorRange s).valid s.mem, .boundsDescriptor),
    (l.kind.isSome, .layerKind),
    (l.positive, .dimSource),
    (decide (l.width ≤ 65535) && decide (l.height ≤ 65535), .dimEncoder),
    (l.dataRange.valid s.mem, .boundsSource),
    ((gb7encDest s).valid s.mem, .boundsDestination),
    (!(gb7encDest s).meets (descriptorRange s) && !(gb7encDest s).meets l.dataRange, .overlap) ]

/-- The normalized pixel GB7ENC encodes at index `i` (R131). -/
def gb7encPixel (fo : Bool) (s : State) (i : Nat) : Pixel := normPixel s.mem (s.mem.layer (u32 s.a[0])) fo i

/-- The file GB7ENC writes: the header and one byte per pixel (R130, R136). -/
def gb7encFile (fo : Bool) (s : State) : List Byte :=
  let l := s.mem.layer (u32 s.a[0])
  gb7Header (hasMask l.pixels (gb7encPixel fo s)) l.width.toNat l.height.toNat
    ++ (List.range l.pixels).map fun i => encodePixel (gb7encPixel fo s i)

/-- GB7ENC's results: R0 the file's length, R1 the has-mask flag (R130). -/
def gb7encResults (fo : Bool) (s : State) : Vector Word 6 :=
  let l := s.mem.layer (u32 s.a[0])
  setResults2 s.r (wordOf (gb7HeaderSize + l.pixels : Nat)) (if hasMask l.pixels (gb7encPixel fo s) then 1 else 0)

/-- GB7ENC's effect (R130): the file at A1 and the results. -/
def gb7encEffect (fo : Bool) (s : State) : State := s.wrote (u32 s.a[1]) (gb7encFile fo s) (gb7encResults fo s)

/-- GB7ENC (R130, R137). -/
def execGb7enc (fo : Bool) (s : State) : Outcome := runCommand (gb7encChecks s) (gb7encEffect fo) s

end Sys2Proof.Machine
end

