-- ==== Sys2Proof/Machine/Dispatch.lean ====
section
/-! DEFINITION. The meaning of every command, one arm per constructor of `Instr`. -/

namespace Sys2Proof.Machine

def exec (i : Instr) (s : State) : Host.Outcome State Fault Refusal :=
  match i with
  | .norm ao fo => Sys2Proof.Machine.execNorm ao fo s
  | .gb7dec => Sys2Proof.Machine.execGb7dec s
  | .gb7enc fo => Sys2Proof.Machine.execGb7enc fo s
  | .lutbuild d7 => Sys2Proof.Machine.execLutbuild d7 s
  | .curve lr lg lb la => Sys2Proof.Machine.execCurve lr lg lb la s
  | .curveg7 yl am inv cmb => Sys2Proof.Machine.execCurveg7 yl am inv cmb s
  | .hist ao => Sys2Proof.Machine.execHist ao s
  | .histg7 => Sys2Proof.Machine.execHistg7 s
  | .convrgb ksel => Sys2Proof.Machine.execConvrgb ksel s
  | .conva ksel => Sys2Proof.Machine.execConva ksel s
  | .rsnn => Sys2Proof.Machine.execRsnn s
  | .rsbl => Sys2Proof.Machine.execRsbl s
  | .render bl => Sys2Proof.Machine.execRender bl s

end Sys2Proof.Machine
end

