-- ==== Sys2Proof/Machine/HostPort.lean ====
section
/-! DEFINITION. The host's operations on CORE (spec/10_state.md R26, R27, R35) and the reset event (spec/70 R270). -/

namespace Sys2Proof.Machine

/-- The number of the command register CMD (R26). -/
def cmdRegister : Nat := 28

/-- A write of the word `w` to CMD: decode it, and execute the command or raise IllegalCommand (R35, R81, R89). CMD stores
nothing (R35). -/
def command (w : Word) (s : State) : Outcome :=
  match decode w with
  | .ok i => exec i s
  | .error c => raise (.illegalCommand c) s

/-- The value a HostRegRead of register `n` returns (R26): CMD and unassigned numbers read 0. -/
def readRegister (n : Nat) (s : State) : Word :=
  if h : n < 7 then s.a[n]
  else if h : 8 ≤ n ∧ n < 17 then s.k[n - 8]
  else if n = 17 then s.kdiv
  else if n = 18 then s.kbias
  else if h : 20 ≤ n ∧ n < 26 then s.r[n - 20]
  else if n = 29 then s.status
  else 0

/-- The state after a HostRegWrite to a register other than CMD (R26): the operand and kernel registers take the value; R0 to
R5, STATUS and unassigned numbers ignore it (R30, R36). -/
def writeRegister (n : Nat) (v : Word) (s : State) : State :=
  if h : n < 7 then { s with a := s.a.set n v }
  else if h : 8 ≤ n ∧ n < 17 then { s with k := s.k.set (n - 8) v }
  else if n = 17 then { s with kdiv := v }
  else if n = 18 then { s with kbias := v }
  else s

/-- The state with the host's reply set (R27; log 6). -/
def replied (y : HostReply) (s : State) : State := { s with reply := y }

/-- `HostRegWrite(n, v)` (R27): a write to CMD runs the command `v` to completion inside this step (R35, R70). -/
def hostRegWrite (n : Nat) (v : Word) (s : State) : Outcome :=
  if n = cmdRegister then command v (replied .done s) else .next (writeRegister n v (replied .done s))

/-- `HostRegRead(n)` (R27). -/
def hostRegRead (n : Nat) (s : State) : Outcome := .next (replied (.word (readRegister n s)) s)

/-- `HostMemWrite(a, bytes)` (R27): refused where the range is not valid, for which the model has no step (R263, log 7). -/
def hostMemWrite (addr : Word) (bs : List Byte) (s : State) : Outcome :=
  if Range.valid { base := u32 addr, len := bs.length } s.mem then
    .next { s with mem := s.mem.store (u32 addr) bs, reply := .done }
  else .refused .hostMemoryRange

/-- `HostMemRead(a, len)` (R27): refused where the range is not valid, for which the model has no step (R263, log 7). -/
def hostMemRead (addr : Word) (len : Nat) (s : State) : Outcome :=
  if Range.valid { base := u32 addr, len := len } s.mem then
    .next (replied (.bytes (s.mem.readBytes (u32 addr) len)) s)
  else .refused .hostMemoryRange

/-- The state after a reset (R270): every register as R58 says, every byte of memory unspecified anew (R59). MEM_SIZE stays; the
host's remaining events are the host's own and stay. -/
def resetState (s : State) : State :=
  { State.reset with
    mem := Memory.fresh s.mem.size (s.mem.draw + 1)
    pending := s.pending
    reply := .done }

/-- One host event (R27, R270). -/
def hostEvent (e : HostEvent) (s : State) : Outcome :=
  match e with
  | .regWrite n v => hostRegWrite n v s
  | .regRead n => hostRegRead n s
  | .memWrite addr bs => hostMemWrite addr bs s
  | .memRead addr len => hostMemRead addr len s
  | .reset => .next (resetState s)

/-- Take the next host event and perform it; with none pending CORE is idle and keeps all its state (R262; log 5). -/
def nextEvent (s : State) : Outcome :=
  match s.pending with
  | [] => .next s
  | e :: rest => hostEvent e { s with pending := rest }

end Sys2Proof.Machine
end

