-- ==== Sys2Proof/Machine/Step.lean ====
section
/-! DEFINITION. One step of the machine: one host event (spec/10_state.md R27). -/

namespace Sys2Proof.Machine

/-- One step: the oldest pending host event, performed atomically (R27, R41, R70). -/
def step (s : State) : Host.Outcome State Fault Refusal := nextEvent s

/-- The state with the command word of a table row at the place the next step takes its command from: a write of the word to CMD
as the oldest pending host event (R35, R40; log 5). -/
def State.withFetchWord (s : State) (nbits w : Nat) : State :=
  { s with pending := .regWrite cmdRegister (tableWord nbits w) :: s.pending }

end Sys2Proof.Machine
end

