-- ==== Sys2Proof/Safety.lean ====
section
/-! DEFINITION. What a run keeps, in the terms the statements use: the state's form, the frame of a command, and the command
rules as tables over `Instr` (where each command writes, what it checks, which results and errors it has). -/

namespace Sys2Proof.Machine

/-! ## The form of a state -/

/-- Every word STATUS can hold: 0 before any command has ended (R58), else `0x00010000 + 256*SUB + CODE` of a success or of a row
of R246 (R36, R37). -/
def legalStatusWords : List Word :=
  [0x00000000, 0x00010000,
    0x00010101, 0x00010201, 0x00010301, 0x00010401,
    0x00010102, 0x00010202, 0x00010302,
    0x00010103, 0x00010203, 0x00010303,
    0x00010104, 0x00010204, 0x00010304, 0x00010404,
    0x00010005, 0x00010106]

/-- The form every step keeps: the memory is canonical and inside a legal MEM_SIZE, and STATUS is a word R36 and R246 allow. -/
def State.wf (s : State) : Bool := s.mem.wf && decide (s.status ∈ legalStatusWords)

/-! ## The frame of a command -/

/-- What a command never changes, whatever it does: the operand and kernel registers (R28, R32), MEM_SIZE, the draw of
unspecified bytes, and the host's own program and reply; and every byte of memory outside the range `g` (R68). -/
structure Frame (g : Range) (s t : State) : Prop where
  operands : t.a = s.a
  kernel : t.k = s.k
  divisor : t.kdiv = s.kdiv
  bias : t.kbias = s.kbias
  size : t.mem.size = s.mem.size
  draw : t.mem.draw = s.mem.draw
  pending : t.pending = s.pending
  reply : t.reply = s.reply
  memory : ∀ x, g.has x = false → t.mem.read x = s.mem.read x

/-- The state the rest of a host event sees: the event taken from the program, and the reply of a write set (R27). -/
def taken (rest : List HostEvent) (s : State) : State := { s with pending := rest, reply := .done }

/-! ## The commands, as tables -/

/-- The destination range of a command: all the memory it can write (R68). -/
def destination : Instr → State → Range
  | .norm _ _, s => normDest s
  | .gb7dec, s => gb7decDest s
  | .gb7enc _, s => gb7encDest s
  | .lutbuild d7, s => lutbuildDest d7 s
  | .curve _ _ _ _, s => curveDest s
  | .curveg7 _ _ _ _, s => curveg7Dest s
  | .hist ao, s => histDest ao s
  | .histg7, s => histg7Dest s
  | .convrgb _, s => convDest s
  | .conva _, s => convDest s
  | .rsnn, s => resampleDest s
  | .rsbl, s => resampleDest s
  | .render _, s => renderDest s

/-- The ranges a command reads, the source ranges of its rule (R69): descriptors, tables, layer data, files, pixel buffers and the
LUTs that are provided. RENDER reads the data of the layers it draws and of no other (R220, R222). -/
def sources : Instr → State → List Range
  | .norm _ _, s => [descriptorRange s, (s.mem.layer (u32 s.a[0])).dataRange]
  | .gb7dec, s => [gb7File s]
  | .gb7enc _, s => [descriptorRange s, (s.mem.layer (u32 s.a[0])).dataRange]
  | .lutbuild _, _ => []
  | .curve lr lg lb la, s =>
    [countedSource 4 s, lutRange lr s.a[3] 256, lutRange lg s.a[4] 256, lutRange lb s.a[5] 256, lutRange la s.a[6] 256]
  | .curveg7 yl _ _ _, s => [countedSource 1 s, lutRange yl s.a[3] 128]
  | .hist _, s => [countedSource 4 s]
  | .histg7, s => [countedSource 1 s]
  | .convrgb _, s => [convSource s]
  | .conva _, s => [convSource s]
  | .rsnn, s => [resampleRange s]
  | .rsbl, s => [resampleRange s]
  | .render _, s => tableRange s :: (drawnLayers s).map Layer.dataRange

/-- The defined flag bits of the command with opcode `opc`, by number (the table of R83). -/
def definedFlagBits : Nat → List Nat
  | 0x01 => [8, 9]
  | 0x02 => []
  | 0x03 => [9]
  | 0x04 => [8]
  | 0x05 => [8, 9, 10, 11]
  | 0x06 => [8, 9, 10, 11, 12, 13]
  | 0x07 => [8]
  | 0x08 => []
  | 0x09 => [8, 9, 10]
  | 0x0A => [8, 9, 10]
  | 0x0B => []
  | 0x0C => []
  | 0x0D => [8]
  | _ => []

/-- The ordered checks of a command (R250). -/
def checks : Instr → State → List (Bool × CoreError)
  | .norm _ _, s => normChecks s
  | .gb7dec, s => gb7decChecks s
  | .gb7enc _, s => gb7encChecks s
  | .lutbuild d7, s => lutbuildChecks d7 s
  | .curve lr lg lb la, s => curveChecks lr lg lb la s
  | .curveg7 yl _ _ cmb, s => curveg7Checks yl cmb s
  | .hist ao, s => histChecks ao s
  | .histg7, s => histg7Checks s
  | .convrgb ksel, s => convChecks ksel s
  | .conva ksel, s => convChecks ksel s
  | .rsnn, s => resampleChecks s
  | .rsbl, s => resampleChecks s
  | .render _, s => renderChecks s

/-- The bytes a command writes at the base of its destination range. -/
def output : Instr → State → List Byte
  | .norm ao fo, s => normBytes ao fo s
  | .gb7dec, s => gb7decBytes s
  | .gb7enc fo, s => gb7encFile fo s
  | .lutbuild d7, s => lutbuildBytes d7 s
  | .curve lr lg lb la, s => curveBytes lr lg lb la s
  | .curveg7 yl am inv cmb, s => curveg7Bytes yl am inv cmb s
  | .hist ao, s => histBytes ao s
  | .histg7, s => histg7Bytes s
  | .convrgb ksel, s => convrgbBytes ksel s
  | .conva ksel, s => convaBytes ksel s
  | .rsnn, s => rsnnBytes s
  | .rsbl, s => rsblBytes s
  | .render bl, s => renderBytes bl s

/-- The result registers after a command that ended without error (R31). -/
def results : Instr → State → Vector Word 6
  | .norm _ _, s => normResults s
  | .gb7dec, s => gb7decResults s
  | .gb7enc fo, s => gb7encResults fo s
  | .lutbuild _, s => s.r
  | .curve _ _ _ _, s => s.r
  | .curveg7 _ _ _ _, s => s.r
  | .hist _, s => s.r
  | .histg7, s => s.r
  | .convrgb _, s => s.r
  | .conva _, s => s.r
  | .rsnn, s => s.r
  | .rsbl, s => s.r
  | .render _, s => renderResults s

/-- How many result registers, from R0 on, a command writes (R31). -/
def resultCount : Instr → Nat
  | .norm _ _ => 2
  | .gb7dec => 3
  | .gb7enc _ => 2
  | .lutbuild _ => 0
  | .curve _ _ _ _ => 0
  | .curveg7 _ _ _ _ => 0
  | .hist _ => 0
  | .histg7 => 0
  | .convrgb _ => 0
  | .conva _ => 0
  | .rsnn => 0
  | .rsbl => 0
  | .render _ => 6

/-- The STATUS words an error of a legal command can leave, by the table of R248: InvalidDimension, BoundsError, OverlapError,
LayerError and FormatError with the sub-causes the row names. The IllegalCommand column belongs to the command word. -/
def listedErrors : Instr → List Word
  | .norm _ _ => [0x00010202, 0x00010104, 0x00010204, 0x00010304, 0x00010005, 0x00010106]
  | .gb7dec => [0x00010101, 0x00010201, 0x00010301, 0x00010401, 0x00010104, 0x00010204, 0x00010005]
  | .gb7enc _ => [0x00010202, 0x00010302, 0x00010104, 0x00010204, 0x00010304, 0x00010005, 0x00010106]
  | .lutbuild _ => [0x00010204]
  | .curve _ _ _ _ => [0x00010202, 0x00010104, 0x00010204, 0x00010404, 0x00010005]
  | .curveg7 _ _ _ _ => [0x00010202, 0x00010104, 0x00010204, 0x00010404, 0x00010005]
  | .hist _ => [0x00010202, 0x00010104, 0x00010204, 0x00010005]
  | .histg7 => [0x00010202, 0x00010104, 0x00010204, 0x00010005]
  | .convrgb _ => [0x00010202, 0x00010104, 0x00010204, 0x00010005]
  | .conva _ => [0x00010202, 0x00010104, 0x00010204, 0x00010005]
  | .rsnn => [0x00010102, 0x00010202, 0x00010104, 0x00010204, 0x00010005]
  | .rsbl => [0x00010102, 0x00010202, 0x00010104, 0x00010204, 0x00010005]
  | .render _ => [0x00010204, 0x00010304, 0x00010005]

end Sys2Proof.Machine
end

