-- ==== Sys2Proof/Certificates/Slice0/Obligations.lean ====
section
/-! DEFINITION. The statements for the provers, each about the machine and none about a program. Docstrings cite the rules of
spec/ they rest on. -/

open Sys2Proof Sys2Proof.Machine

/-! ## Encoding and decoding -/

/-- R81 to R83, R88, R93: a word decodes to a command iff the command is legal and the word is its encoding. -/
def Obligations.DecodeAcceptsExactlyTheEncodings : Prop :=
  ∀ (w : Word) (i : Instr), decode w = .ok i ↔ i.wf = true ∧ encode i = w

/-- R82, R83, R92, R93: seven command words of the spec's own text decode to the commands they stand for. -/
def Obligations.SpecWordsDecode : Prop :=
  decode 0x00000001#32 = .ok (.norm false false)
    ∧ decode 0x00000203#32 = .ok (.gb7enc true)
    ∧ decode 0x00000705#32 = .ok (.curve true true true false)
    ∧ decode 0x00002F06#32 = .ok (.curveg7 true .threshold true .or)
    ∧ decode 0x00000209#32 = .ok (.convrgb .sharpen)
    ∧ decode 0x0000000C#32 = .ok .rsbl
    ∧ decode 0x0000010D#32 = .ok (.render true)

/-- R86: a CMD write of a word with an unassigned opcode sets STATUS to IllegalCommand(1) and has no other effect. -/
def Obligations.UnassignedOpcodeIsIllegal : Prop :=
  ∀ (s : State) (w : Word) (rest : List HostEvent), s.pending = .regWrite 28 w :: rest →
    (w.toNat % 256 = 0 ∨ 14 ≤ w.toNat % 256) →
    step s = .next { taken rest s with status := 0x00010103#32 }

/-- R87: a 1 in a flag bit the command does not define, bits 31:14 among them for every command, is IllegalCommand(2). -/
def Obligations.UndefinedFlagBitIsIllegal : Prop :=
  ∀ (s : State) (w : Word) (rest : List HostEvent) (n : Nat), s.pending = .regWrite 28 w :: rest →
    1 ≤ w.toNat % 256 → w.toNat % 256 ≤ 13 → 8 ≤ n → w.getLsbD n = true →
    (14 ≤ n ∨ n ∉ definedFlagBits (w.toNat % 256)) →
    step s = .next { taken rest s with status := 0x00010203#32 }

/-- R88: CURVEG7 with CMB = 3, and CONVRGB or CONVA with KSEL = 7, are IllegalCommand(3), where no undefined flag bit is set
(R81's order). -/
def Obligations.ReservedFieldValueIsIllegal : Prop :=
  ∀ (s : State) (w : Word) (rest : List HostEvent), s.pending = .regWrite 28 w :: rest →
    (∀ n, 8 ≤ n → w.getLsbD n = true → n ∈ definedFlagBits (w.toNat % 256)) →
    ((w.toNat % 256 = 6 ∧ w.getLsbD 12 = true ∧ w.getLsbD 13 = true)
      ∨ ((w.toNat % 256 = 9 ∨ w.toNat % 256 = 10) ∧ w.getLsbD 8 = true ∧ w.getLsbD 9 = true ∧ w.getLsbD 10 = true)) →
    step s = .next { taken rest s with status := 0x00010303#32 }

/-! ## Steps and host operations -/

/-- R27, R35, R70: a step whose event writes to CMD a word that decodes to `i` is `exec` of `i` on the state with that event taken. -/
def Obligations.StepRunsDecodedCommand : Prop :=
  ∀ (s : State) (w : Word) (rest : List HostEvent) (i : Instr), s.pending = .regWrite 28 w :: rest →
    decode w = .ok i → step s = exec i (taken rest s)

/-- R26, R28, R30, R36: a register write to any number but CMD's changes exactly the operand and kernel registers 0 to 6 and 8 to
18, each by its own number; R0 to R5, STATUS and unassigned numbers ignore it. -/
def Obligations.RegisterWriteAccess : Prop :=
  ∀ (s : State) (n : Nat) (v : Word) (rest : List HostEvent), s.pending = .regWrite n v :: rest → n ≠ 28 →
    ∃ t, step s = .next t ∧ t.mem = s.mem ∧ t.pending = rest ∧ t.reply = .done
      ∧ ∀ m, readRegister m t = if m = n ∧ (n ≤ 6 ∨ (8 ≤ n ∧ n ≤ 18)) then v else readRegister m s

/-- R26, R27, R35: a register read returns the register by its number, 0 for CMD and unassigned numbers, and changes nothing
else. -/
def Obligations.RegisterReadReturns : Prop :=
  ∀ (s : State) (n : Nat) (rest : List HostEvent), s.pending = .regRead n :: rest →
    ∃ v, step s = .next { s with pending := rest, reply := .word v }
      ∧ (∀ h : n < 7, v = s.a[n])
      ∧ (∀ h : 8 ≤ n ∧ n < 17, v = s.k[n - 8])
      ∧ (n = 17 → v = s.kdiv) ∧ (n = 18 → v = s.kbias)
      ∧ (∀ h : 20 ≤ n ∧ n < 26, v = s.r[n - 20])
      ∧ (n = 29 → v = s.status)
      ∧ (n = 7 ∨ n = 19 ∨ n = 26 ∨ n = 27 ∨ n = 28 ∨ 30 ≤ n → v = 0#32)

/-- R27, R66, R71: bytes written by a host memory write are what a host memory read of the same range returns next; every other
byte, every register and STATUS stay. -/
def Obligations.HostMemoryWriteThenRead : Prop :=
  ∀ (s : State) (x : Word) (bs : List Byte) (rest : List HostEvent),
    s.pending = .memWrite x bs :: .memRead x bs.length :: rest →
    (bs.length = 0 ∨ u32 x + bs.length ≤ s.mem.size) →
    ∃ t, step s = .next t ∧ t.pending = .memRead x bs.length :: rest
      ∧ step t = .next { t with pending := rest, reply := .bytes bs }
      ∧ (∀ y, Range.has { base := u32 x, len := bs.length } y = false → t.mem.read y = s.mem.read y)
      ∧ t.mem.size = s.mem.size ∧ ∀ m, readRegister m t = readRegister m s

/-- R27, R263 and 93 U9; log 7 (a choice of the model: the refusal's name): a host memory operation whose range is not valid has no
step. -/
def Obligations.HostMemoryOutsideHasNoStep : Prop :=
  ∀ (s : State) (x : Word) (bs : List Byte) (len : Nat) (rest : List HostEvent),
    (s.pending = .memWrite x bs :: rest → bs.length ≠ 0 → s.mem.size < u32 x + bs.length →
      step s = .refused .hostMemoryRange)
    ∧ (s.pending = .memRead x len :: rest → len ≠ 0 → s.mem.size < u32 x + len → step s = .refused .hostMemoryRange)

/-- R58, R59, R270; log 2, log 3 for the draw: a reset event puts every register to 0, leaves every byte of memory at a free value
of a new draw, and keeps MEM_SIZE. -/
def Obligations.ResetEventClearsRegisters : Prop :=
  ∀ (s : State) (rest : List HostEvent), s.pending = .reset :: rest →
    ∃ t, step s = .next t ∧ (∀ n, readRegister n t = 0#32) ∧ t.mem.size = s.mem.size ∧ t.pending = rest
      ∧ ∀ x, t.mem.read x = Config.resetByte (s.mem.draw + 1) x

/-- R27, R263, R279; log 7: a step stops in no other way than a host memory operation outside the memory. -/
def Obligations.StepStopsOnlyOutsideMemory : Prop :=
  ∀ s : State, (∃ t, step s = .next t)
    ∨ (step s = .refused .hostMemoryRange
        ∧ ∃ (x : Word) (n : Nat) (rest : List HostEvent), s.mem.size < u32 x + n
          ∧ (s.pending = .memRead x n :: rest ∨ ∃ bs : List Byte, bs.length = n ∧ s.pending = .memWrite x bs :: rest))

/-! ## Reset and the invariant -/

/-- R58: after reset every register reads 0. -/
def Obligations.ResetRegistersReadZero : Prop :=
  ∀ n : Nat, readRegister n State.reset = 0#32

/-- R13, R45, R58; log 1, log 4 (choices of the model: the form of the memory): the state after reset has the form every step
keeps. -/
def Obligations.ResetStateIsWellFormed : Prop :=
  State.reset.wf = true

/-- R13, R36, R45, R246; log 4: every step from a well-formed state gives a well-formed state: MEM_SIZE legal, the memory canonical
and inside it, STATUS one of the words R36 and R246 allow. -/
def Obligations.StepKeepsWellFormed : Prop :=
  ∀ s t : State, s.wf = true → step s = .next t → t.wf = true

/-! ## Rules over all commands -/

/-- R68, R28, R30, R31: the write set of a command is its destination range, the result registers its row names and STATUS; a
command that ends with an error writes no byte of memory and no result register. Everything else stays: the operand and kernel
registers, MEM_SIZE, the draw, the host's program and reply. -/
def Obligations.CommandsWriteOnlyDestination : Prop :=
  ∀ (i : Instr) (s t : State), exec i s = .next t →
    (∀ x, (destination i s).has x = false → t.mem.read x = s.mem.read x)
      ∧ (∀ (n : Nat) (h : n < 6), resultCount i ≤ n → t.r[n] = s.r[n])
      ∧ (t.status ≠ 0x00010000#32 → t.mem = s.mem ∧ t.r = s.r)
      ∧ t.a = s.a ∧ t.k = s.k ∧ t.kdiv = s.kdiv ∧ t.kbias = s.kbias
      ∧ t.mem.size = s.mem.size ∧ t.mem.draw = s.mem.draw ∧ t.pending = s.pending ∧ t.reply = s.reply

/-- R247, R258: a command stopped by a check leaves the status word of that check's error and has no other effect, and every
command that does not end with STATUS 0x00010000 was stopped so. -/
def Obligations.ErrorWritesOnlyStatus : Prop :=
  ∀ (i : Instr) (s : State),
    (∀ e : CoreError, firstFailing (checks i s) = some e →
      exec i s = .next { s with status := BitVec.ofNat 32 (2 ^ 16 + 256 * e.sub + e.code) })
    ∧ ∀ t : State, exec i s = .next t → t.status ≠ 0x00010000#32 →
        t = { s with status := t.status } ∧ ∃ e : CoreError, firstFailing (checks i s) = some e

/-- R248: a legal command ends without error or with one of the errors its row lists. -/
def Obligations.CommandsRaiseOnlyListedErrors : Prop :=
  ∀ (i : Instr) (s t : State), i.wf = true → exec i s = .next t → t.status = 0x00010000#32 ∨ t.status ∈ listedErrors i

/-- R38: no command's behaviour depends on STATUS or on a result register. -/
def Obligations.CommandsIgnoreStatusAndResults : Prop :=
  ∀ (i : Instr) (s t : State) (w : Word) (r : Vector Word 6), exec i s = .next t →
    ∃ u, exec i { s with status := w, r := r } = .next u ∧ u.status = t.status ∧ u.mem = t.mem
      ∧ ∀ (n : Nat) (h : n < 6), n < resultCount i → t.status = 0x00010000#32 → u.r[n] = t.r[n]

/-- R78: the same command on the same registers and the same source bytes, all other memory, STATUS and the results being anything,
ends with the same STATUS and writes the same destination bytes and results. The source bytes are those of the ranges the command
reads (`sources`, R69). -/
def Obligations.CommandsAreFunctionsOfTheirInputs : Prop :=
  ∀ (i : Instr) (s u t : State), exec i s = .next t →
    u.a = s.a → u.k = s.k → u.kdiv = s.kdiv → u.kbias = s.kbias → u.mem.size = s.mem.size →
    (∀ g ∈ sources i s, ∀ x, g.has x = true → u.mem.read x = s.mem.read x) →
    ∃ v, exec i u = .next v ∧ v.status = t.status
      ∧ (t.status = 0x00010000#32 →
          (∀ x, (destination i s).has x = true → v.mem.read x = t.mem.read x)
            ∧ ∀ (n : Nat) (h : n < 6), n < resultCount i → v.r[n] = t.r[n])

/-- R68, R69, R78: issuing the same command again, on the state it left, changes nothing: its sources are intact, and the same
bytes, results and status are written. -/
def Obligations.CommandTwiceIsCommandOnce : Prop :=
  ∀ (i : Instr) (s t : State), exec i s = .next t → exec i t = .next t

/-! ## Ranges, numbers and rounding -/

/-- R66, R69: validity of a range in numbers, and sharing a byte as there being a common address. -/
def Obligations.RangesAreValidAndMeetByAddress : Prop :=
  ∀ (g h : Range) (m : Memory),
    (g.valid m = true ↔ g.len = 0 ∨ g.base + g.len ≤ m.size)
      ∧ (g.meets h = true ↔ ∃ x, g.has x = true ∧ h.has x = true)

/-- R61: a multi-byte number is big-endian: what reading one gives, and which bytes storing one leaves, so that a number that fits
its bytes reads back. -/
def Obligations.NumbersAreBigEndian : Prop :=
  ∀ (m : Memory) (x n v : Nat),
    (m.readNum x n = ∑ i ∈ Finset.range n, (m.read (x + i)).toNat * 256 ^ (n - 1 - i))
      ∧ (∀ i < n, ((m.store x (numBytes n v)).read (x + i)).toNat = v / 256 ^ (n - 1 - i) % 256)
      ∧ (v < 256 ^ n → (m.store x (numBytes n v)).readNum x n = v)

/-- R17: `rnd` is the floor of the argument plus a half: no integer is nearer, a tie goes to the larger integer, and the rounding
of a quotient of integers is this quotient in integers. -/
def Obligations.RoundingIsHalfUp : Prop :=
  (∀ q : Rat, rnd q = ⌊q + 1 / 2⌋ ∧ ∀ n : Int, |q - rnd q| ≤ |q - n|)
    ∧ (∀ n : Int, rnd ((n : Rat) + 1 / 2) = n + 1)
    ∧ ∀ a d : Int, 0 < d → rnd ((a : Rat) / (d : Rat)) = (2 * a + d) / (2 * d)

/-! ## The RGBA Normalizer -/

/-- R48, R57, R61, R106, R108 to R112: the fields of a layer descriptor by offset and bit, its opacity and the range of its data;
and the canonical pixel of each kind of layer. -/
def Obligations.CanonicalPixelByKind : Prop :=
  (∀ (m : Memory) (p : Nat),
    let l := m.layer p
    let kind := (m.read p).toNat
    let flags := (m.read (p + 1)).toNat
    let mode := (m.read (p + 2)).toNat % 4
    let signed := fun v : Nat => if v < 2 ^ 31 then (v : Int) else (v : Int) - 2 ^ 32
    ((l.kind = some .raster ↔ kind = 0) ∧ (l.kind = some .gb7 ↔ kind = 1) ∧ (l.kind = some .flat ↔ kind = 2)
        ∧ (l.kind = none ↔ 3 ≤ kind))
      ∧ ((l.hasAlpha = true ↔ flags % 2 = 1) ∧ (l.alphaHidden = true ↔ flags / 2 % 2 = 1)
        ∧ (l.alphaRemoved = true ↔ flags / 4 % 2 = 1) ∧ (l.visible = true ↔ flags / 8 % 2 = 1)
        ∧ (l.deleted = true ↔ flags / 16 % 2 = 1))
      ∧ ((l.blend = .normal ↔ mode = 0) ∧ (l.blend = .multiply ↔ mode = 1) ∧ (l.blend = .screen ↔ mode = 2)
        ∧ (l.blend = .overlay ↔ mode = 3))
      ∧ l.width = signed (m.readNum (p + 4) 4) ∧ l.height = signed (m.readNum (p + 8) 4)
      ∧ u32 l.data = m.readNum (p + 12) 4 ∧ l.op = (min (m.readNum (p + 16) 4) 65536 : Nat) / 65536
      ∧ l.dataRange = { base := m.readNum (p + 12) 4,
                        len := if kind = 0 then 4 * (l.width * l.height).toNat
                               else if kind = 1 then (l.width * l.height).toNat else 0 })
  ∧ ∀ (m : Memory) (l : Layer) (fo : Bool) (i : Nat),
    let force := fo || l.alphaHidden || l.alphaRemoved
    (l.kind = some .flat →
      (normPixel m l fo i).r.toNat = u32 l.data / 2 ^ 16 % 256 ∧ (normPixel m l fo i).g.toNat = u32 l.data / 2 ^ 8 % 256
        ∧ (normPixel m l fo i).b.toNat = u32 l.data % 256 ∧ (normPixel m l fo i).a = 255)
    ∧ (l.kind = some .gb7 →
      let byte := (m.read (u32 l.data + i)).toNat
      (normPixel m l fo i).r.toNat = byte % 128 * 255 / 127 ∧ (normPixel m l fo i).g = (normPixel m l fo i).r
        ∧ (normPixel m l fo i).b = (normPixel m l fo i).r
        ∧ (normPixel m l fo i).a = if l.hasAlpha && !force && decide (byte < 128) then 0 else 255)
    ∧ (l.kind = some .raster →
      (normPixel m l fo i).r = m.read (u32 l.data + 4 * i) ∧ (normPixel m l fo i).g = m.read (u32 l.data + 4 * i + 1)
        ∧ (normPixel m l fo i).b = m.read (u32 l.data + 4 * i + 2)
        ∧ (normPixel m l fo i).a = if force then 255 else m.read (u32 l.data + 4 * i + 3))

/-- R105, R112, R113: NORM, where every check of R106 passes, writes the canonical pixels (or their alpha as opaque grey) and the
size, and nothing else. -/
def Obligations.NormWritesCanonicalPixels : Prop :=
  ∀ (ao fo : Bool) (s : State),
    let l := s.mem.layer (u32 s.a[0])
    (descriptorRange s).valid s.mem = true → l.kind ≠ none → 0 < l.width → 0 < l.height →
    l.dataRange.valid s.mem = true → (normDest s).valid s.mem = true →
    (normDest s).meets (descriptorRange s) = false → (normDest s).meets l.dataRange = false →
    ∃ t, exec (.norm ao fo) s = .next t ∧ Frame (normDest s) s t ∧ t.status = 0x00010000#32
      ∧ t.r[0] = wordOf l.width ∧ t.r[1] = wordOf l.height ∧ (∀ (n : Nat) (h : n < 6), 2 ≤ n → t.r[n] = s.r[n])
      ∧ ∀ i < (l.width * l.height).toNat,
          let p := normPixel s.mem l fo i
          t.mem.rgba (u32 s.a[1]) i = if ao then { r := p.a, g := p.a, b := p.a, a := 255 } else p

/-- R106: the STATUS NORM leaves is that of its first failing check. -/
def Obligations.NormReportsFirstFailingCheck : Prop :=
  ∀ (ao fo : Bool) (s : State),
    let l := s.mem.layer (u32 s.a[0])
    ∃ t, exec (.norm ao fo) s = .next t ∧ t.status =
      if (descriptorRange s).valid s.mem = false then 0x00010304#32
      else if l.kind = none then 0x00010106#32
      else if l.width ≤ 0 ∨ l.height ≤ 0 then 0x00010202#32
      else if l.dataRange.valid s.mem = false then 0x00010104#32
      else if (normDest s).valid s.mem = false then 0x00010204#32
      else if (normDest s).meets (descriptorRange s) = true ∨ (normDest s).meets l.dataRange = true then 0x00010005#32
      else 0x00010000#32

/-! ## The GB7 Codec -/

/-- R122, R127, R128: GB7DEC, where every check of R123 passes, copies the packed bytes and returns the header's size and
has-alpha-mask flag; a zero dimension is accepted. -/
def Obligations.Gb7DecodeCopiesPackedPixels : Prop :=
  ∀ s : State,
    let w := (s.mem.read (u32 s.a[0] + 6)).toNat * 256 + (s.mem.read (u32 s.a[0] + 7)).toNat
    let h := (s.mem.read (u32 s.a[0] + 8)).toNat * 256 + (s.mem.read (u32 s.a[0] + 9)).toNat
    u32 s.a[0] + u32 s.a[1] ≤ s.mem.size → s.mem.readBytes (u32 s.a[0]) 5 = [0x47, 0x42, 0x37, 0x1D, 1] →
    12 + w * h ≤ u32 s.a[1] → (gb7decDest s).valid s.mem = true → (gb7decDest s).meets (gb7File s) = false →
    ∃ t, exec .gb7dec s = .next t ∧ Frame (gb7decDest s) s t ∧ t.status = 0x00010000#32
      ∧ u32 t.r[0] = w ∧ u32 t.r[1] = h ∧ u32 t.r[2] = (s.mem.read (u32 s.a[0] + 5)).toNat % 2
      ∧ (∀ (n : Nat) (h : n < 6), 3 ≤ n → t.r[n] = s.r[n])
      ∧ ∀ i < w * h, t.mem.read (u32 s.a[2] + i) = s.mem.read (u32 s.a[0] + 12 + i)

/-- R123: the STATUS GB7DEC leaves is that of its first failing check. -/
def Obligations.Gb7DecodeReportsFirstFailingCheck : Prop :=
  ∀ s : State, ∃ t, exec .gb7dec s = .next t ∧ t.status =
    if (gb7File s).valid s.mem = false then 0x00010104#32
    else if u32 s.a[1] < 12 then 0x00010101#32
    else if s.mem.readBytes (u32 s.a[0]) 4 ≠ [0x47, 0x42, 0x37, 0x1D] then 0x00010201#32
    else if s.mem.read (u32 s.a[0] + 4) ≠ 1 then 0x00010301#32
    else if u32 s.a[1] < 12 + gb7Width s * gb7Height s then 0x00010401#32
    else if (gb7decDest s).valid s.mem = false then 0x00010204#32
    else if (gb7decDest s).meets (gb7File s) = true then 0x00010005#32
    else 0x00010000#32

/-- R130 to R136: GB7ENC, where every check of R137 passes, writes the header and one byte per pixel, with the luma and its
quantization in integers, and returns the file's length and the has-mask flag. -/
def Obligations.Gb7EncodeWritesFile : Prop :=
  ∀ (fo : Bool) (s : State),
    let l := s.mem.layer (u32 s.a[0])
    let n := (l.width * l.height).toNat
    let px := normPixel s.mem l fo
    (descriptorRange s).valid s.mem = true → l.kind ≠ none → 0 < l.width → l.width ≤ 65535 → 0 < l.height →
    l.height ≤ 65535 → l.dataRange.valid s.mem = true → (gb7encDest s).valid s.mem = true →
    (gb7encDest s).meets (descriptorRange s) = false → (gb7encDest s).meets l.dataRange = false →
    ∃ (t : State) (mask : Nat), exec (.gb7enc fo) s = .next t ∧ Frame (gb7encDest s) s t ∧ t.status = 0x00010000#32
      ∧ (mask = if ∃ i < n, (px i).a.toNat < 128 then 1 else 0)
      ∧ u32 t.r[0] = 12 + n ∧ u32 t.r[1] = mask ∧ (∀ (n : Nat) (h : n < 6), 2 ≤ n → t.r[n] = s.r[n])
      ∧ t.mem.readNum (u32 s.a[1]) 4 = 0x4742371D ∧ (t.mem.read (u32 s.a[1] + 4)).toNat = 1
      ∧ (t.mem.read (u32 s.a[1] + 5)).toNat = mask ∧ (t.mem.readNum (u32 s.a[1] + 6) 2 : Int) = l.width
      ∧ (t.mem.readNum (u32 s.a[1] + 8) 2 : Int) = l.height ∧ t.mem.readNum (u32 s.a[1] + 10) 2 = 0
      ∧ ∀ i < n,
          let luma8 := (2126 * (px i).r.toNat + 7152 * (px i).g.toNat + 722 * (px i).b.toNat + 5000) / 10000
          (t.mem.read (u32 s.a[1] + 12 + i)).toNat
            = (if 128 ≤ (px i).a.toNat then 128 else 0) + (254 * luma8 + 255) / 510

/-- R137: the STATUS GB7ENC leaves is that of its first failing check. -/
def Obligations.Gb7EncodeReportsFirstFailingCheck : Prop :=
  ∀ (fo : Bool) (s : State),
    let l := s.mem.layer (u32 s.a[0])
    ∃ t, exec (.gb7enc fo) s = .next t ∧ t.status =
      if (descriptorRange s).valid s.mem = false then 0x00010304#32
      else if l.kind = none then 0x00010106#32
      else if l.width ≤ 0 ∨ l.height ≤ 0 then 0x00010202#32
      else if 65535 < l.width ∨ 65535 < l.height then 0x00010302#32
      else if l.dataRange.valid s.mem = false then 0x00010104#32
      else if (gb7encDest s).valid s.mem = false then 0x00010204#32
      else if (gb7encDest s).meets (descriptorRange s) = true ∨ (gb7encDest s).meets l.dataRange = true then 0x00010005#32
      else 0x00010000#32

/-- R139: a Gb7 layer that declares a mask, with no force flag, encoded and then decoded from the file in memory, gives back its
size, its mask flag and every pixel byte exactly. -/
def Obligations.Gb7RoundTripIsExact : Prop :=
  ∀ s t u : State,
    let l := s.mem.layer (u32 s.a[0])
    l.kind = some .gb7 → l.hasAlpha = true → l.alphaHidden = false → l.alphaRemoved = false →
    exec (.gb7enc false) s = .next t → t.status = 0x00010000#32 →
    u.mem = t.mem → u.a[0] = s.a[1] → u32 u.a[1] = 12 + l.pixels →
    Range.valid { base := u32 u.a[2], len := l.pixels } u.mem = true →
    Range.meets { base := u32 u.a[2], len := l.pixels } (gb7encDest s) = false →
    ∃ v, exec .gb7dec u = .next v ∧ v.status = 0x00010000#32
      ∧ v.r[0] = wordOf l.width ∧ v.r[1] = wordOf l.height ∧ v.r[2] = t.r[1]
      ∧ ∀ i < l.pixels, v.mem.read (u32 u.a[2] + i) = s.mem.read (u32 l.data + i)

/-! ## The Curve Engine -/

/-- R145, R147, R148: the points of LUTBUILD are the operands clamped to `[0, max]`, exchanged as pairs iff the first lies
right of the second. -/
def Obligations.LutPointsAreClampedAndOrdered : Prop :=
  ∀ (d7 : Bool) (s : State),
    let top : Int := if d7 then 127 else 255
    let x1 := max 0 (min (s32 s.a[0]) top)
    let y1 := max 0 (min (s32 s.a[1]) top)
    let x2 := max 0 (min (s32 s.a[2]) top)
    let y2 := max 0 (min (s32 s.a[3]) top)
    let p := lutbuildPoints d7 s
    0 ≤ p.x1 ∧ p.x1 ≤ p.x2 ∧ p.x2 ≤ top ∧ 0 ≤ p.y1 ∧ p.y1 ≤ top ∧ 0 ≤ p.y2 ∧ p.y2 ≤ top
      ∧ (x1 ≤ x2 → p = { x1 := x1, y1 := y1, x2 := x2, y2 := y2 })
      ∧ (x2 < x1 → p = { x1 := x2, y1 := y2, x2 := x1, y2 := y1 })

/-- R145, R149 to R152: LUTBUILD, where the destination range is valid, writes the three-segment table, each entry rounded in
integers. -/
def Obligations.LutbuildWritesThreeSegments : Prop :=
  ∀ (d7 : Bool) (s : State), (lutbuildDest d7 s).valid s.mem = true →
    let max : Nat := if d7 then 127 else 255
    let p := lutbuildPoints d7 s
    ∃ t, exec (.lutbuild d7) s = .next t ∧ Frame (lutbuildDest d7 s) s t ∧ t.status = 0x00010000#32 ∧ t.r = s.r
      ∧ ∀ x ≤ max, ((t.mem.read (u32 s.a[4] + x)).toNat : Int) =
          if (x : Int) ≤ p.x1 then (if p.x1 = 0 then p.y1 else (2 * (p.y1 * x) + p.x1) / (2 * p.x1))
          else if (x : Int) ≤ p.x2 then
            (2 * (p.y1 * (p.x2 - p.x1) + (p.y2 - p.y1) * (x - p.x1)) + (p.x2 - p.x1)) / (2 * (p.x2 - p.x1))
          else (2 * (p.y2 * (max - p.x2) + (max - p.y2) * (x - p.x2)) + (max - p.x2)) / (2 * (max - p.x2))

/-- R153: LUTBUILD of the points `(0,0)` and `(max,max)` writes the identity LUT. -/
def Obligations.IdentityLutIsIdentity : Prop :=
  ∀ (d7 : Bool) (s : State),
    let max : Nat := if d7 then 127 else 255
    s.a[0] = 0 → s.a[1] = 0 → s.a[2] = BitVec.ofNat 32 max → s.a[3] = BitVec.ofNat 32 max →
    (lutbuildDest d7 s).valid s.mem = true →
    ∃ t, exec (.lutbuild d7) s = .next t ∧ t.status = 0x00010000#32
      ∧ ∀ x ≤ max, (t.mem.read (u32 s.a[4] + x)).toNat = x

/-- R155: CURVE, where every check of R156 passes, maps each channel with a LUT through it and copies the others. -/
def Obligations.CurveMapsChannels : Prop :=
  ∀ (lr lg lb la : Bool) (s : State), 0 < s32 s.a[1] →
    Range.valid { base := u32 s.a[0], len := 4 * (s32 s.a[1]).toNat } s.mem = true →
    (lutRange lr s.a[3] 256).valid s.mem = true → (lutRange lg s.a[4] 256).valid s.mem = true →
    (lutRange lb s.a[5] 256).valid s.mem = true → (lutRange la s.a[6] 256).valid s.mem = true →
    (curveDest s).valid s.mem = true →
    (curveDest s).meets { base := u32 s.a[0], len := 4 * (s32 s.a[1]).toNat } = false →
    (curveDest s).meets (lutRange lr s.a[3] 256) = false → (curveDest s).meets (lutRange lg s.a[4] 256) = false →
    (curveDest s).meets (lutRange lb s.a[5] 256) = false → (curveDest s).meets (lutRange la s.a[6] 256) = false →
    ∃ t, exec (.curve lr lg lb la) s = .next t ∧ Frame (curveDest s) s t ∧ t.status = 0x00010000#32 ∧ t.r = s.r
      ∧ ∀ i < (s32 s.a[1]).toNat, ∀ (c : Nat) (h : c < 4),
          let v := s.mem.read (u32 s.a[0] + 4 * i + c)
          t.mem.read (u32 s.a[2] + 4 * i + c)
            = if [lr, lg, lb, la][c] then s.mem.read (u32 s.a[3 + c] + v.toNat) else v

/-- R160, R162 to R167: CURVEG7, where every check of R161 passes, maps each byte: the new luma's low seven bits, and the mask bit
by alpha mode, threshold and combination. -/
def Obligations.Curveg7MapsBytes : Prop :=
  ∀ (yl : Bool) (am : AlphaMode) (inv : Bool) (cmb : Combine) (s : State), cmb ≠ .reserved3 → 0 < s32 s.a[1] →
    Range.valid { base := u32 s.a[0], len := (s32 s.a[1]).toNat } s.mem = true →
    (lutRange yl s.a[3] 128).valid s.mem = true → (curveg7Dest s).valid s.mem = true →
    (curveg7Dest s).meets { base := u32 s.a[0], len := (s32 s.a[1]).toNat } = false →
    (curveg7Dest s).meets (lutRange yl s.a[3] 128) = false →
    ∃ t, exec (.curveg7 yl am inv cmb) s = .next t ∧ Frame (curveg7Dest s) s t ∧ t.status = 0x00010000#32 ∧ t.r = s.r
      ∧ ∀ i < (s32 s.a[1]).toNat,
          let byte := (s.mem.read (u32 s.a[0] + i)).toNat
          let luma := if yl then (s.mem.read (u32 s.a[3] + byte % 128)).toNat else byte % 128
          let pass : Prop := if inv then (luma : Int) < s32 s.a[4] else s32 s.a[4] ≤ (luma : Int)
          let out := (t.mem.read (u32 s.a[2] + i)).toNat
          out % 128 = luma % 128
            ∧ (am = .preserve → (128 ≤ out ↔ 128 ≤ byte))
            ∧ (am = .opaque → 128 ≤ out) ∧ (am = .transparent → out < 128)
            ∧ (am = .threshold → cmb = .replace → (128 ≤ out ↔ pass))
            ∧ (am = .threshold → cmb = .and → (128 ≤ out ↔ 128 ≤ byte ∧ pass))
            ∧ (am = .threshold → cmb = .or → (128 ≤ out ↔ 128 ≤ byte ∨ pass))

/-- R168: CURVEG7 with `alphaMode` preserve and no `yLut` (the command word 0x00000006) copies the input byte for byte, whatever
INV, the combination and the threshold are. -/
def Obligations.Curveg7PreserveIsCopy : Prop :=
  decode 0x00000006#32 = .ok (.curveg7 false .preserve false .and)
    ∧ ∀ (inv : Bool) (cmb : Combine) (s t : State), exec (.curveg7 false .preserve inv cmb) s = .next t →
        t.status = 0x00010000#32 →
        ∀ i < (s32 s.a[1]).toNat, t.mem.read (u32 s.a[2] + i) = s.mem.read (u32 s.a[0] + i)

/-- R54, R169, R170: HIST, where every check of R171 passes, writes every bin as a four-byte count of the pixels with that
channel value. -/
def Obligations.HistWritesChannelCounts : Prop :=
  ∀ (ao : Bool) (s : State), 0 < s32 s.a[1] →
    Range.valid { base := u32 s.a[0], len := 4 * (s32 s.a[1]).toNat } s.mem = true → (histDest ao s).valid s.mem = true →
    (histDest ao s).meets { base := u32 s.a[0], len := 4 * (s32 s.a[1]).toNat } = false →
    ∃ t, exec (.hist ao) s = .next t ∧ Frame (histDest ao s) s t ∧ t.status = 0x00010000#32 ∧ t.r = s.r
      ∧ ∀ v < 256, ∀ c < if ao then 1 else 3,
          t.mem.readNum (u32 s.a[2] + 1024 * c + 4 * v) 4
            = ((Finset.range (s32 s.a[1]).toNat).filter fun i =>
                (s.mem.read (u32 s.a[0] + 4 * i + if ao then 3 else c)).toNat = v).card

/-- R54, R173, R174: HISTG7, where every check of R175 passes, writes the 128 luma counts and the two mask counts. -/
def Obligations.Histg7WritesLumaAndMaskCounts : Prop :=
  ∀ s : State, 0 < s32 s.a[1] →
    Range.valid { base := u32 s.a[0], len := (s32 s.a[1]).toNat } s.mem = true → (histg7Dest s).valid s.mem = true →
    (histg7Dest s).meets { base := u32 s.a[0], len := (s32 s.a[1]).toNat } = false →
    ∃ t, exec .histg7 s = .next t ∧ Frame (histg7Dest s) s t ∧ t.status = 0x00010000#32 ∧ t.r = s.r
      ∧ (∀ v < 128, t.mem.readNum (u32 s.a[2] + 4 * v) 4
          = ((Finset.range (s32 s.a[1]).toNat).filter fun i => (s.mem.read (u32 s.a[0] + i)).toNat % 128 = v).card)
      ∧ ∀ b < 2, t.mem.readNum (u32 s.a[2] + 512 + 4 * b) 4
          = ((Finset.range (s32 s.a[1]).toNat).filter fun i => (s.mem.read (u32 s.a[0] + i)).toNat / 128 = b).card

/-- R172, R176: the bins of every histogram block sum to the pixel count. -/
def Obligations.HistogramBinsSumToPixelCount : Prop :=
  ∀ s t : State,
    (∀ ao : Bool, exec (.hist ao) s = .next t → t.status = 0x00010000#32 → ∀ c < if ao then 1 else 3,
      (∑ v ∈ Finset.range 256, t.mem.readNum (u32 s.a[2] + 1024 * c + 4 * v) 4) = (s32 s.a[1]).toNat)
    ∧ (exec .histg7 s = .next t → t.status = 0x00010000#32 →
      (∑ v ∈ Finset.range 128, t.mem.readNum (u32 s.a[2] + 4 * v) 4) = (s32 s.a[1]).toNat
        ∧ t.mem.readNum (u32 s.a[2] + 512) 4 + t.mem.readNum (u32 s.a[2] + 516) 4 = (s32 s.a[1]).toNat)

/-- R146, R156, R161, R171, R175: the STATUS each curve command leaves is that of its first failing check. -/
def Obligations.CurveCommandsReportFirstFailingCheck : Prop :=
  ∀ (lr lg lb la yl inv ao d7 : Bool) (am : AlphaMode) (cmb : Combine) (s : State),
    let rgba : Range := { base := u32 s.a[0], len := 4 * (s32 s.a[1]).toNat }
    let packed : Range := { base := u32 s.a[0], len := (s32 s.a[1]).toNat }
    (∃ t, exec (.lutbuild d7) s = .next t ∧ t.status =
      if (lutbuildDest d7 s).valid s.mem = false then 0x00010204#32 else 0x00010000#32)
    ∧ (∃ t, exec (.curve lr lg lb la) s = .next t ∧ t.status =
      if s32 s.a[1] ≤ 0 then 0x00010202#32
      else if rgba.valid s.mem = false then 0x00010104#32
      else if (lutRange lr s.a[3] 256).valid s.mem = false ∨ (lutRange lg s.a[4] 256).valid s.mem = false
          ∨ (lutRange lb s.a[5] 256).valid s.mem = false ∨ (lutRange la s.a[6] 256).valid s.mem = false then 0x00010404#32
      else if (curveDest s).valid s.mem = false then 0x00010204#32
      else if (curveDest s).meets rgba = true ∨ (curveDest s).meets (lutRange lr s.a[3] 256) = true
          ∨ (curveDest s).meets (lutRange lg s.a[4] 256) = true ∨ (curveDest s).meets (lutRange lb s.a[5] 256) = true
          ∨ (curveDest s).meets (lutRange la s.a[6] 256) = true then 0x00010005#32
      else 0x00010000#32)
    ∧ (∃ t, exec (.curveg7 yl am inv cmb) s = .next t ∧ t.status =
      if cmb = .reserved3 then 0x00010303#32
      else if s32 s.a[1] ≤ 0 then 0x00010202#32
      else if packed.valid s.mem = false then 0x00010104#32
      else if (lutRange yl s.a[3] 128).valid s.mem = false then 0x00010404#32
      else if (curveg7Dest s).valid s.mem = false then 0x00010204#32
      else if (curveg7Dest s).meets packed = true ∨ (curveg7Dest s).meets (lutRange yl s.a[3] 128) = true then 0x00010005#32
      else 0x00010000#32)
    ∧ (∃ t, exec (.hist ao) s = .next t ∧ t.status =
      if s32 s.a[1] ≤ 0 then 0x00010202#32
      else if rgba.valid s.mem = false then 0x00010104#32
      else if (histDest ao s).valid s.mem = false then 0x00010204#32
      else if (histDest ao s).meets rgba = true then 0x00010005#32
      else 0x00010000#32)
    ∧ (∃ t, exec .histg7 s = .next t ∧ t.status =
      if s32 s.a[1] ≤ 0 then 0x00010202#32
      else if packed.valid s.mem = false then 0x00010104#32
      else if (histg7Dest s).valid s.mem = false then 0x00010204#32
      else if (histg7Dest s).meets packed = true then 0x00010005#32
      else 0x00010000#32)

/-! ## The Convolution Engine -/

/-- R184, R185, R187, R188: the kernel each legal KSEL selects, and a divisor is never 0. -/
def Obligations.KernelSelection : Prop :=
  ∀ s : State,
    (∀ (n : Nat) (h : n < 9), (selectKernel s .custom).coef[n] = s32 s.k[n])
      ∧ (selectKernel s .custom).bias = s32 s.kbias
      ∧ (let sum := ∑ n : Fin 9, s32 s.k[n]
         (selectKernel s .custom).div = if s32 s.kdiv ≠ 0 then s32 s.kdiv else if sum ≠ 0 then sum else 1)
      ∧ selectKernel s .identity = { coef := #v[0, 0, 0, 0, 1, 0, 0, 0, 0], div := 1, bias := 0 }
      ∧ selectKernel s .sharpen = { coef := #v[0, -1, 0, -1, 5, -1, 0, -1, 0], div := 1, bias := 0 }
      ∧ selectKernel s .gaussian = { coef := #v[1, 2, 1, 2, 4, 2, 1, 2, 1], div := 16, bias := 0 }
      ∧ selectKernel s .boxBlur = { coef := #v[1, 1, 1, 1, 1, 1, 1, 1, 1], div := 9, bias := 0 }
      ∧ selectKernel s .prewittX = { coef := #v[-1, 0, 1, -1, 0, 1, -1, 0, 1], div := 1, bias := 128 }
      ∧ selectKernel s .prewittY = { coef := #v[-1, -1, -1, 0, 0, 0, 1, 1, 1], div := 1, bias := 128 }
      ∧ ∀ ksel, (selectKernel s ksel).div ≠ 0

/-- R180 to R183: `convolveChannel` in integers over the source bytes: the clamp-to-edge sum, the rounded quotient by a divisor of
either sign, the bias, the clamp. -/
def Obligations.ConvolveChannelInIntegers : Prop :=
  ∀ (m : Memory) (p w h : Nat) (ker : Kernel) (c x y : Nat), x < w → y < h → c < 4 → ker.div ≠ 0 →
    let at_ := fun (dx dy : Int) =>
      ((m.read (p + ((max 0 (min (y + dy) (h - 1))).toNat * w + (max 0 (min (x + dx) (w - 1))).toNat) * 4 + c)).toNat : Int)
    let acc := ker.coef[0] * at_ (-1) (-1) + ker.coef[1] * at_ 0 (-1) + ker.coef[2] * at_ 1 (-1)
      + ker.coef[3] * at_ (-1) 0 + ker.coef[4] * at_ 0 0 + ker.coef[5] * at_ 1 0
      + ker.coef[6] * at_ (-1) 1 + ker.coef[7] * at_ 0 1 + ker.coef[8] * at_ 1 1
    let quotient := if 0 < ker.div then (2 * acc + ker.div) / (2 * ker.div) else (-2 * acc - ker.div) / (-2 * ker.div)
    ((convolveChannel m p w h ker (fun q => q.chan c) x y).toNat : Int) = max 0 (min (quotient + ker.bias) 255)

/-- R189: CONVRGB, where every check of R191 passes, filters channels 0, 1, 2 with the selected kernel and copies the alpha. -/
def Obligations.ConvrgbFiltersColour : Prop :=
  ∀ (ksel : KernelSel) (s : State), ksel ≠ .reserved7 → 0 < s32 s.a[1] → 0 < s32 s.a[2] →
    (convSource s).valid s.mem = true → (convDest s).valid s.mem = true → (convDest s).meets (convSource s) = false →
    let w := (s32 s.a[1]).toNat
    let h := (s32 s.a[2]).toNat
    ∃ t, exec (.convrgb ksel) s = .next t ∧ Frame (convDest s) s t ∧ t.status = 0x00010000#32 ∧ t.r = s.r
      ∧ ∀ y < h, ∀ x < w,
          (∀ c < 3, t.mem.read (u32 s.a[3] + (y * w + x) * 4 + c)
            = convolveChannel s.mem (u32 s.a[0]) w h (selectKernel s ksel) (fun q => q.chan c) x y)
          ∧ t.mem.read (u32 s.a[3] + (y * w + x) * 4 + 3) = s.mem.read (u32 s.a[0] + (y * w + x) * 4 + 3)

/-- R190: CONVA, where every check of R191 passes, filters channel 3 with the selected kernel and copies the colour. -/
def Obligations.ConvaFiltersAlpha : Prop :=
  ∀ (ksel : KernelSel) (s : State), ksel ≠ .reserved7 → 0 < s32 s.a[1] → 0 < s32 s.a[2] →
    (convSource s).valid s.mem = true → (convDest s).valid s.mem = true → (convDest s).meets (convSource s) = false →
    let w := (s32 s.a[1]).toNat
    let h := (s32 s.a[2]).toNat
    ∃ t, exec (.conva ksel) s = .next t ∧ Frame (convDest s) s t ∧ t.status = 0x00010000#32 ∧ t.r = s.r
      ∧ ∀ y < h, ∀ x < w,
          (∀ c < 3, t.mem.read (u32 s.a[3] + (y * w + x) * 4 + c) = s.mem.read (u32 s.a[0] + (y * w + x) * 4 + c))
          ∧ t.mem.read (u32 s.a[3] + (y * w + x) * 4 + 3)
            = convolveChannel s.mem (u32 s.a[0]) w h (selectKernel s ksel) (fun q => q.chan 3) x y

/-- R193: with the identity preset both convolution commands copy every byte. -/
def Obligations.IdentityKernelCopiesImage : Prop :=
  ∀ s t : State, (exec (.convrgb .identity) s = .next t ∨ exec (.conva .identity) s = .next t) →
    t.status = 0x00010000#32 →
    ∀ i < 4 * ((s32 s.a[1]).toNat * (s32 s.a[2]).toNat), t.mem.read (u32 s.a[3] + i) = s.mem.read (u32 s.a[0] + i)

/-! ## The Resampler -/

/-- R202: RSNN, where every check of R201 passes, copies to each destination pixel the source pixel at the floored scaled
coordinates. -/
def Obligations.RsnnCopiesNearestPixel : Prop :=
  ∀ s : State, 0 < s32 s.a[4] → 0 < s32 s.a[5] → 0 < s32 s.a[1] → 0 < s32 s.a[2] →
    (resampleRange s).valid s.mem = true → (resampleDest s).valid s.mem = true →
    (resampleDest s).meets (resampleRange s) = false →
    let sw := (s32 s.a[1]).toNat
    let sh := (s32 s.a[2]).toNat
    let dw := (s32 s.a[4]).toNat
    let dh := (s32 s.a[5]).toNat
    ∃ t, exec .rsnn s = .next t ∧ Frame (resampleDest s) s t ∧ t.status = 0x00010000#32 ∧ t.r = s.r
      ∧ ∀ y < dh, ∀ x < dw, ∀ c < 4, t.mem.read (u32 s.a[3] + (y * dw + x) * 4 + c)
          = s.mem.read (u32 s.a[0] + (y * sh / dh * sw + x * sw / dw) * 4 + c)

/-- R203: the scaled coordinates of RSNN lie inside the source, and RSNN to the source's own size copies the image. -/
def Obligations.RsnnSameSizeCopies : Prop :=
  (∀ x sw dw : Nat, x < dw → 0 < sw → x * sw / dw < sw)
    ∧ ∀ s t : State, exec .rsnn s = .next t → t.status = 0x00010000#32 → s.a[4] = s.a[1] → s.a[5] = s.a[2] →
        ∀ i < 4 * ((s32 s.a[1]).toNat * (s32 s.a[2]).toNat), t.mem.read (u32 s.a[3] + i) = s.mem.read (u32 s.a[0] + i)

/-- R204 to R207: RSBL, where every check of R201 passes, writes the bilinear blend of the four neighbours, in integers. -/
def Obligations.RsblBlendsFourNeighbours : Prop :=
  ∀ s : State, 0 < s32 s.a[4] → 0 < s32 s.a[5] → 0 < s32 s.a[1] → 0 < s32 s.a[2] →
    (resampleRange s).valid s.mem = true → (resampleDest s).valid s.mem = true →
    (resampleDest s).meets (resampleRange s) = false →
    let sw := (s32 s.a[1]).toNat
    let sh := (s32 s.a[2]).toNat
    let dw := (s32 s.a[4]).toNat
    let dh := (s32 s.a[5]).toNat
    ∃ t, exec .rsbl s = .next t ∧ Frame (resampleDest s) s t ∧ t.status = 0x00010000#32 ∧ t.r = s.r
      ∧ ∀ y < dh, ∀ x < dw, ∀ c < 4,
          let x0 := x * (sw - 1) / dw
          let rx := x * (sw - 1) % dw
          let x1 := min (x0 + 1) (sw - 1)
          let y0 := y * (sh - 1) / dh
          let ry := y * (sh - 1) % dh
          let y1 := min (y0 + 1) (sh - 1)
          let px := fun x y => (s.mem.read (u32 s.a[0] + (y * sw + x) * 4 + c)).toNat
          let num := (dw - rx) * (dh - ry) * px x0 y0 + rx * (dh - ry) * px x1 y0 + (dw - rx) * ry * px x0 y1
            + rx * ry * px x1 y1
          (t.mem.read (u32 s.a[3] + (y * dw + x) * 4 + c)).toNat = (2 * num + dw * dh) / (2 * (dw * dh))

/-- R207, R208: every channel RSBL writes lies between the least and the greatest value of that channel in the source. -/
def Obligations.RsblStaysWithinSourceValues : Prop :=
  ∀ (s t : State) (c lo hi : Nat), exec .rsbl s = .next t → t.status = 0x00010000#32 → c < 4 →
    (∀ i < (s32 s.a[1]).toNat * (s32 s.a[2]).toNat,
      lo ≤ (s.mem.read (u32 s.a[0] + 4 * i + c)).toNat ∧ (s.mem.read (u32 s.a[0] + 4 * i + c)).toNat ≤ hi) →
    ∀ i < (s32 s.a[4]).toNat * (s32 s.a[5]).toNat,
      lo ≤ (t.mem.read (u32 s.a[3] + 4 * i + c)).toNat ∧ (t.mem.read (u32 s.a[3] + 4 * i + c)).toNat ≤ hi

/-- R191, R201: the STATUS the convolution and resampling commands leave is that of their first failing check; the resampler looks
at its target first. -/
def Obligations.ImageCommandsReportFirstFailingCheck : Prop :=
  ∀ (ksel : KernelSel) (s : State),
    (∀ i : Instr, (i = .convrgb ksel ∨ i = .conva ksel) → ∃ t, exec i s = .next t ∧ t.status =
      if ksel = .reserved7 then 0x00010303#32
      else if s32 s.a[1] ≤ 0 ∨ s32 s.a[2] ≤ 0 then 0x00010202#32
      else if (convSource s).valid s.mem = false then 0x00010104#32
      else if (convDest s).valid s.mem = false then 0x00010204#32
      else if (convDest s).meets (convSource s) = true then 0x00010005#32
      else 0x00010000#32)
    ∧ ∀ i : Instr, (i = .rsnn ∨ i = .rsbl) → ∃ t, exec i s = .next t ∧ t.status =
      if s32 s.a[4] ≤ 0 ∨ s32 s.a[5] ≤ 0 then 0x00010102#32
      else if s32 s.a[1] ≤ 0 ∨ s32 s.a[2] ≤ 0 then 0x00010202#32
      else if (resampleRange s).valid s.mem = false then 0x00010104#32
      else if (resampleDest s).valid s.mem = false then 0x00010204#32
      else if (resampleDest s).meets (resampleRange s) = true then 0x00010005#32
      else 0x00010000#32

/-! ## The Layer Compositor -/

/-- R215, R216, R221, R224, R225, R227, R228: RENDER, where every check of R217 passes, writes the canvas, each pixel the drawn
layers composited bottom to top over transparent black, and returns the canvas size and the last placement. The pixel of a drawn
layer is its normalized image resampled to the draw size: the nearest pixel (R202) with BL = 0, the bilinear blend of four
neighbours (R207), in integers, with BL = 1. -/
def Obligations.RenderCompositesDrawnLayers : Prop :=
  (∀ (bl : Bool) (s : State),
    (tableRange s).valid s.mem = true → (renderDest s).valid s.mem = true → (renderDest s).meets (tableRange s) = false →
    let scale : Rat := (u32 s.a[3] : Rat) / 65536 * ((u32 s.a[2] : Rat) / 65536)
    let pl := fun l : Layer => place scale (canvasW s) (canvasH s) l
    ∃ t, exec (.render bl) s = .next t ∧ Frame (renderDest s) s t ∧ t.status = 0x00010000#32
      ∧ t.r[0] = wordOf (canvasW s) ∧ t.r[1] = wordOf (canvasH s)
      ∧ (∀ l, (drawnLayers s).getLast? = some l → t.r[2] = wordOf (pl l).dx ∧ t.r[3] = wordOf (pl l).dy
          ∧ t.r[4] = wordOf (rnd ((l.width : Rat) * scale)) ∧ t.r[5] = wordOf (rnd ((l.height : Rat) * scale)))
      ∧ (drawnLayers s = [] → t.r[2] = 0 ∧ t.r[3] = 0 ∧ t.r[4] = 0 ∧ t.r[5] = 0)
      ∧ ∀ cy < canvasH s, ∀ cx < canvasW s, t.mem.px (u32 s.a[4]) (canvasW s) cx cy
          = (drawnLayers s).foldl (fun acc l =>
              let u := (cx : Int) - (pl l).dx
              let v := (cy : Int) - (pl l).dy
              if 0 ≤ u ∧ u < (pl l).drawW ∧ 0 ≤ v ∧ v < (pl l).drawH then
                composite l.blend l.op acc (layerPixel s.mem bl l (pl l).drawW.toNat (pl l).drawH.toNat u.toNat v.toNat)
              else acc) Pixel.clear)
  ∧ ∀ (m : Memory) (l : Layer) (dw dh u v : Nat), 0 < dw → 0 < dh →
      let w := l.width.toNat
      let h := l.height.toNat
      layerPixel m false l dw dh u v = normPixel m l false (v * h / dh * w + u * w / dw)
        ∧ ∀ c < 4,
            let x0 := u * (w - 1) / dw
            let rx := u * (w - 1) % dw
            let x1 := min (x0 + 1) (w - 1)
            let y0 := v * (h - 1) / dh
            let ry := v * (h - 1) % dh
            let y1 := min (y0 + 1) (h - 1)
            let px := fun x y => ((normPixel m l false (y * w + x)).chan c).toNat
            let num := (dw - rx) * (dh - ry) * px x0 y0 + rx * (dh - ry) * px x1 y0 + (dw - rx) * ry * px x0 y1
              + rx * ry * px x1 y1
            ((layerPixel m true l dw dh u v).chan c).toNat = (2 * num + dw * dh) / (2 * (dw * dh))

/-- R49, R217 to R220, R222, R223, R226: the layer stack of RENDER, descriptor `i` of the table, the bottom layer first; the canvas
size, each layer's draw size and offset, in integers, every side scaled by `u32(A3)*u32(A2)/2^32` and rounded half up; and the
layers it draws, those of the stack that pass every skip, in the order of the stack. -/
def Obligations.RenderGeometryInIntegers : Prop :=
  ∀ s : State,
    let scale : Int := (u32 s.a[3] : Int) * (u32 s.a[2] : Int)
    let side := fun v : Int => (2 * (v * scale) + 2 ^ 32) / 2 ^ 33
    ((renderLayers s).length = u32 s.a[1]
        ∧ ∀ (i : Nat) (h : i < (renderLayers s).length), (renderLayers s)[i] = s.mem.layer (u32 s.a[0] + 32 * i))
      ∧ tableRange s = { base := u32 s.a[0], len := 32 * u32 s.a[1] }
      ∧ renderDest s = { base := u32 s.a[4], len := 4 * (canvasW s * canvasH s) }
      ∧ (∀ l, (renderLayers s).find? (fun l => !l.deleted) = some l →
          (canvasW s : Int) = max 0 (side l.width) ∧ (canvasH s : Int) = max 0 (side l.height))
      ∧ ((∀ l ∈ renderLayers s, l.deleted = true) → canvasW s = 0 ∧ canvasH s = 0)
      ∧ (∀ l, place (renderScale s) (canvasW s) (canvasH s) l
          = { dx := (canvasW s - side l.width) / 2, dy := (canvasH s - side l.height) / 2,
              drawW := side l.width, drawH := side l.height })
      ∧ drawnLayers s = (renderLayers s).filter fun l =>
          decide (l.deleted = false ∧ l.visible = true ∧ l.kind ≠ none ∧ 0 < l.width ∧ 0 < l.height
            ∧ l.dataRange.valid s.mem = true ∧ l.dataRange.meets (renderDest s) = false
            ∧ 0 < side l.width ∧ 0 < side l.height)

/-- R217: the STATUS RENDER leaves is that of its first failing check, of the table, the destination and their overlap. No check
looks at a single layer; a layer comes in through the canvas size alone, which the first layer that is not deleted gives the
destination range (R219). -/
def Obligations.RenderReportsFirstFailingCheck : Prop :=
  ∀ (bl : Bool) (s : State), ∃ t, exec (.render bl) s = .next t ∧ t.status =
    if (tableRange s).valid s.mem = false then 0x00010304#32
    else if (renderDest s).valid s.mem = false then 0x00010204#32
    else if (renderDest s).meets (tableRange s) = true then 0x00010005#32
    else 0x00010000#32

/-- R220, R222, R255: on a stack in which every layer is deleted, invisible or malformed RENDER ends without error, writes
transparent black and reports no placement. -/
def Obligations.RenderSkipsBadLayersSilently : Prop :=
  ∀ (bl : Bool) (s : State),
    (tableRange s).valid s.mem = true → (renderDest s).valid s.mem = true → (renderDest s).meets (tableRange s) = false →
    (∀ l ∈ renderLayers s, l.deleted = true ∨ l.visible = false ∨ l.kind = none ∨ l.width ≤ 0 ∨ l.height ≤ 0
      ∨ l.dataRange.valid s.mem = false ∨ l.dataRange.meets (renderDest s) = true) →
    ∃ t, exec (.render bl) s = .next t ∧ t.status = 0x00010000#32
      ∧ (∀ i < 4 * (canvasW s * canvasH s), t.mem.read (u32 s.a[4] + i) = 0)
      ∧ t.r[2] = 0 ∧ t.r[3] = 0 ∧ t.r[4] = 0 ∧ t.r[5] = 0

/-- R237: with COUNT = 0 RENDER ends without error, writes no byte of memory and returns six zeros. -/
def Obligations.RenderOfNoLayers : Prop :=
  ∀ (bl : Bool) (s : State), s.a[1] = 0 →
    ∃ t, exec (.render bl) s = .next t ∧ t.status = 0x00010000#32 ∧ (∀ x, t.mem.read x = s.mem.read x)
      ∧ ∀ (n : Nat) (h : n < 6), t.r[n] = 0

/-- R234: RENDER at scale 1 with nearest interpolation of a single visible, fully opaque, normal layer writes that layer's
normalized pixels on a canvas of its own size. -/
def Obligations.RenderSingleOpaqueLayer : Prop :=
  ∀ s : State,
    let l := s.mem.layer (u32 s.a[0])
    let dest : Range := { base := u32 s.a[4], len := 4 * (l.width * l.height).toNat }
    s.a[1] = 1 → s.a[2] = 0x00010000#32 → s.a[3] = 0x00010000#32 →
    l.deleted = false → l.visible = true → l.kind ≠ none → 0 < l.width → 0 < l.height → l.blend = .normal →
    65536 ≤ u32 l.opacity → (∀ i < (l.width * l.height).toNat, (normPixel s.mem l false i).a = 255) →
    (descriptorRange s).valid s.mem = true → l.dataRange.valid s.mem = true → dest.valid s.mem = true →
    dest.meets (descriptorRange s) = false → l.dataRange.meets dest = false →
    ∃ t, exec (.render false) s = .next t ∧ Frame dest s t ∧ t.status = 0x00010000#32
      ∧ t.r = #v[wordOf l.width, wordOf l.height, 0, 0, wordOf l.width, wordOf l.height]
      ∧ ∀ i < (l.width * l.height).toNat, t.mem.rgba (u32 s.a[4]) i = normPixel s.mem l false i

/-- R229, R230, R232: the compositing step channel by channel: the formula of the mode, exact, rounded once half up, and in 0 to 255
without a clamp. -/
def Obligations.CompositeByFormula : Prop :=
  ∀ (mode : BlendMode) (op : Rat) (b s : Pixel), 0 ≤ op → op ≤ 1 →
    let sa : Rat := (s.a.toNat : Rat) / 255 * op
    let ba : Rat := (b.a.toNat : Rat) / 255
    let ao : Rat := sa + ba * (1 - sa)
    let blended := fun cb cs : Rat =>
      match mode with
      | .normal => cs
      | .multiply => cb * cs
      | .screen => cb + cs - cb * cs
      | .overlay => if cb ≤ 1 / 2 then 2 * cb * cs else 1 - 2 * (1 - cb) * (1 - cs)
    (ao = 0 → composite mode op b s = Pixel.clear)
      ∧ (ao ≠ 0 → (((composite mode op b s).a.toNat : Nat) : Int) = ⌊255 * ao + 1 / 2⌋
          ∧ ∀ c < 3,
              let cs : Rat := ((s.chan c).toNat : Rat) / 255
              let cb : Rat := ((b.chan c).toNat : Rat) / 255
              let cm : Rat := (1 - ba) * cs + ba * blended cb cs
              ((((composite mode op b s).chan c).toNat : Nat) : Int)
                = ⌊255 * ((sa * cm + (1 - sa) * ba * cb) / ao) + 1 / 2⌋)

/-- R229, R230, R235: facts of the compositing step: a source of no alpha, or at opacity 0, leaves a backdrop that is clear where
its alpha is 0 as it was (the premise on the backdrop is log 11's deduction: R235(a) remarks that every accumulator pixel meets it,
which R229 does not give); over a pixel of alpha 0 every mode writes the source colour; an opaque normal source replaces the pixel; an opaque backdrop stays opaque. -/
def Obligations.CompositeCorners : Prop :=
  ∀ (mode : BlendMode) (op : Rat) (b s : Pixel), 0 ≤ op → op ≤ 1 →
    ((s.a = 0 ∨ op = 0) → (b.a = 0 → b = Pixel.clear) → composite mode op b s = b)
    ∧ (b.a = 0 → s.a ≠ 0 → op ≠ 0 →
        composite mode op b s = { s with a := byteOf (rnd ((s.a.toNat : Rat) * op)) })
    ∧ (s.a = 255 → op = 1 → composite .normal op b s = s)
    ∧ (b.a = 255 → (composite mode op b s).a = 255)
end

