-- ==== Sys2Proof/Laws/Arith.lean ====
section
/-! SUPPORT. The laws of `rnd` and `clamp` (spec/00_scope.md R16 to R18) and of ranges (spec/20_memory.md R66, R69). -/

namespace Sys2Proof.Machine

/-- `rnd` is the floor of `q + 1/2`, in the library's spelling of floor (R17). -/
theorem rnd_eq_floor (q : Rat) : rnd q = ⌊q + 1 / 2⌋ := rfl

/-- `rnd` gives `n` exactly on the half-open interval from `n - 1/2` to `n + 1/2` (R17). -/
theorem rnd_eq_iff (q : Rat) (n : Int) : rnd q = n ↔ (n : Rat) - 1 / 2 ≤ q ∧ q < n + 1 / 2 := by
  rw [rnd_eq_floor, Int.floor_eq_iff]
  constructor <;> rintro ⟨h1, h2⟩ <;> constructor <;> linarith

@[simp] theorem rnd_intCast (n : Int) : rnd (n : Rat) = n := by
  rw [rnd_eq_iff]; constructor <;> linarith

@[simp] theorem rnd_natCast (n : Nat) : rnd (n : Rat) = n := rnd_intCast n

@[simp] theorem rnd_zero : rnd 0 = 0 := by simpa using rnd_intCast 0

/-- The integer form of `rnd` on a quotient (R17). -/
theorem rnd_div (n d : Int) (hd : 0 < d) : rnd ((n : Rat) / d) = (2 * n + d) / (2 * d) := by
  have hd' : (0 : Rat) < d := by exact_mod_cast hd
  have h2 : (2 * n + d) / (2 * d) * (2 * d) ≤ 2 * n + d := Int.ediv_mul_le _ (by omega)
  have h3 : 2 * n + d < ((2 * n + d) / (2 * d) + 1) * (2 * d) := Int.lt_ediv_add_one_mul_self _ (by omega)
  generalize (2 * n + d) / (2 * d) = k at h2 h3
  have h2' : (k : Rat) * (2 * d) ≤ 2 * n + d := by exact_mod_cast h2
  have h3' : (2 * n + d : Rat) < (k + 1) * (2 * d) := by exact_mod_cast h3
  rw [rnd_eq_iff]
  constructor
  · rw [le_div_iff₀ hd']; linarith
  · rw [div_lt_iff₀ hd']; linarith

theorem rnd_mono {p q : Rat} (h : p ≤ q) : rnd p ≤ rnd q := by
  rw [rnd_eq_floor, rnd_eq_floor]; exact Int.floor_le_floor (by linarith)

/-- A rational between two integers rounds to an integer between them. -/
theorem rnd_mem_Icc {q : Rat} {lo hi : Int} (h1 : (lo : Rat) ≤ q) (h2 : q ≤ hi) : lo ≤ rnd q ∧ rnd q ≤ hi := by
  constructor
  · simpa using rnd_mono h1
  · simpa using rnd_mono h2

theorem clamp_of_mem {v lo hi : Int} (h1 : lo ≤ v) (h2 : v ≤ hi) : clamp v lo hi = v := by
  unfold clamp; split_ifs <;> omega

theorem clamp_mem {v lo hi : Int} (h : lo ≤ hi) : lo ≤ clamp v lo hi ∧ clamp v lo hi ≤ hi := by
  unfold clamp; split_ifs <;> omega

@[simp] theorem byteOf_toNat (b : Byte) : byteOf (b.toNat : Int) = b := by
  simp [byteOf]

/-- A number of 0 to 255 survives as a byte. -/
theorem toNat_byteOf {v : Int} (h1 : 0 ≤ v) (h2 : v ≤ 255) : ((byteOf v).toNat : Int) = v := by
  unfold byteOf
  rw [BitVec.toNat_ofInt]
  omega

/-! ## Ranges -/

theorem has_iff (g : Range) (x : Nat) : g.has x = true ↔ g.base ≤ x ∧ x < g.base + g.len := by
  simp [Range.has]

theorem valid_iff (g : Range) (m : Memory) : g.valid m = true ↔ g.len = 0 ∨ g.base + g.len ≤ m.size := by
  simp [Range.valid]

theorem meets_iff (g h : Range) :
    g.meets h = true ↔ 0 < g.len ∧ 0 < h.len ∧ g.base < h.base + h.len ∧ h.base < g.base + g.len := by
  simp [Range.meets, and_assoc]

end Sys2Proof.Machine
end

