-- ==== Sys2Proof/Laws/State.lean ====
section
/-! SUPPORT. What each named update of the state leaves in each field, each true by definition. -/

namespace Sys2Proof.Machine

@[simp] theorem ended_a (s : State) (w : Word) : (s.ended w).a = s.a := rfl
@[simp] theorem ended_k (s : State) (w : Word) : (s.ended w).k = s.k := rfl
@[simp] theorem ended_kdiv (s : State) (w : Word) : (s.ended w).kdiv = s.kdiv := rfl
@[simp] theorem ended_kbias (s : State) (w : Word) : (s.ended w).kbias = s.kbias := rfl
@[simp] theorem ended_r (s : State) (w : Word) : (s.ended w).r = s.r := rfl
@[simp] theorem ended_status (s : State) (w : Word) : (s.ended w).status = w := rfl
@[simp] theorem ended_mem (s : State) (w : Word) : (s.ended w).mem = s.mem := rfl
@[simp] theorem ended_pending (s : State) (w : Word) : (s.ended w).pending = s.pending := rfl
@[simp] theorem ended_reply (s : State) (w : Word) : (s.ended w).reply = s.reply := rfl

@[simp] theorem wrote_a (s : State) (base : Nat) (bs : List Byte) (r : Vector Word 6) : (s.wrote base bs r).a = s.a := rfl
@[simp] theorem wrote_k (s : State) (base : Nat) (bs : List Byte) (r : Vector Word 6) : (s.wrote base bs r).k = s.k := rfl
@[simp] theorem wrote_kdiv (s : State) (base : Nat) (bs : List Byte) (r : Vector Word 6) : (s.wrote base bs r).kdiv = s.kdiv := rfl
@[simp] theorem wrote_kbias (s : State) (base : Nat) (bs : List Byte) (r : Vector Word 6) : (s.wrote base bs r).kbias = s.kbias := rfl
@[simp] theorem wrote_r (s : State) (base : Nat) (bs : List Byte) (r : Vector Word 6) : (s.wrote base bs r).r = r := rfl
@[simp] theorem wrote_status (s : State) (base : Nat) (bs : List Byte) (r : Vector Word 6) : (s.wrote base bs r).status = s.status := rfl
@[simp] theorem wrote_mem (s : State) (base : Nat) (bs : List Byte) (r : Vector Word 6) : (s.wrote base bs r).mem = s.mem.store base bs := rfl
@[simp] theorem wrote_pending (s : State) (base : Nat) (bs : List Byte) (r : Vector Word 6) : (s.wrote base bs r).pending = s.pending := rfl
@[simp] theorem wrote_reply (s : State) (base : Nat) (bs : List Byte) (r : Vector Word 6) : (s.wrote base bs r).reply = s.reply := rfl

@[simp] theorem raised_a (e : CoreError) (s : State) : (raised e s).a = s.a := rfl
@[simp] theorem raised_k (e : CoreError) (s : State) : (raised e s).k = s.k := rfl
@[simp] theorem raised_kdiv (e : CoreError) (s : State) : (raised e s).kdiv = s.kdiv := rfl
@[simp] theorem raised_kbias (e : CoreError) (s : State) : (raised e s).kbias = s.kbias := rfl
@[simp] theorem raised_r (e : CoreError) (s : State) : (raised e s).r = s.r := rfl
@[simp] theorem raised_status (e : CoreError) (s : State) : (raised e s).status = e.statusWord := rfl
@[simp] theorem raised_mem (e : CoreError) (s : State) : (raised e s).mem = s.mem := rfl
@[simp] theorem raised_pending (e : CoreError) (s : State) : (raised e s).pending = s.pending := rfl
@[simp] theorem raised_reply (e : CoreError) (s : State) : (raised e s).reply = s.reply := rfl

@[simp] theorem replied_a (y : HostReply) (s : State) : (replied y s).a = s.a := rfl
@[simp] theorem replied_k (y : HostReply) (s : State) : (replied y s).k = s.k := rfl
@[simp] theorem replied_kdiv (y : HostReply) (s : State) : (replied y s).kdiv = s.kdiv := rfl
@[simp] theorem replied_kbias (y : HostReply) (s : State) : (replied y s).kbias = s.kbias := rfl
@[simp] theorem replied_r (y : HostReply) (s : State) : (replied y s).r = s.r := rfl
@[simp] theorem replied_status (y : HostReply) (s : State) : (replied y s).status = s.status := rfl
@[simp] theorem replied_mem (y : HostReply) (s : State) : (replied y s).mem = s.mem := rfl
@[simp] theorem replied_pending (y : HostReply) (s : State) : (replied y s).pending = s.pending := rfl
@[simp] theorem replied_reply (y : HostReply) (s : State) : (replied y s).reply = y := rfl

@[simp] theorem withFetchWord_a (s : State) (nbits w : Nat) : (s.withFetchWord nbits w).a = s.a := rfl
@[simp] theorem withFetchWord_k (s : State) (nbits w : Nat) : (s.withFetchWord nbits w).k = s.k := rfl
@[simp] theorem withFetchWord_kdiv (s : State) (nbits w : Nat) : (s.withFetchWord nbits w).kdiv = s.kdiv := rfl
@[simp] theorem withFetchWord_kbias (s : State) (nbits w : Nat) : (s.withFetchWord nbits w).kbias = s.kbias := rfl
@[simp] theorem withFetchWord_r (s : State) (nbits w : Nat) : (s.withFetchWord nbits w).r = s.r := rfl
@[simp] theorem withFetchWord_status (s : State) (nbits w : Nat) : (s.withFetchWord nbits w).status = s.status := rfl
@[simp] theorem withFetchWord_mem (s : State) (nbits w : Nat) : (s.withFetchWord nbits w).mem = s.mem := rfl
@[simp] theorem withFetchWord_pending (s : State) (nbits w : Nat) : (s.withFetchWord nbits w).pending = .regWrite cmdRegister (tableWord nbits w) :: s.pending := rfl
@[simp] theorem withFetchWord_reply (s : State) (nbits w : Nat) : (s.withFetchWord nbits w).reply = s.reply := rfl

@[simp] theorem resetState_a (s : State) : (resetState s).a = State.reset.a := rfl
@[simp] theorem resetState_k (s : State) : (resetState s).k = State.reset.k := rfl
@[simp] theorem resetState_kdiv (s : State) : (resetState s).kdiv = 0 := rfl
@[simp] theorem resetState_kbias (s : State) : (resetState s).kbias = 0 := rfl
@[simp] theorem resetState_r (s : State) : (resetState s).r = State.reset.r := rfl
@[simp] theorem resetState_status (s : State) : (resetState s).status = 0 := rfl
@[simp] theorem resetState_mem (s : State) : (resetState s).mem = Memory.fresh s.mem.size (s.mem.draw + 1) := rfl
@[simp] theorem resetState_pending (s : State) : (resetState s).pending = s.pending := rfl
@[simp] theorem resetState_reply (s : State) : (resetState s).reply = .done := rfl

@[simp] theorem store_size (m : Memory) (base : Nat) (bs : List Byte) : (m.store base bs).size = m.size := rfl
@[simp] theorem store_draw (m : Memory) (base : Nat) (bs : List Byte) : (m.store base bs).draw = m.draw := rfl
@[simp] theorem fresh_size (size draw : Nat) : (Memory.fresh size draw).size = size := rfl
@[simp] theorem fresh_draw (size draw : Nat) : (Memory.fresh size draw).draw = draw := rfl
@[simp] theorem fresh_cells (size draw : Nat) : (Memory.fresh size draw).cells = [] := rfl

end Sys2Proof.Machine
end

