-- ==== Sys2Proof/Laws/Memory.lean ====
section
/-! SUPPORT. The laws of the buffer memory: what a read gives after a store (spec/20_memory.md R71), and that every memory
operation keeps the canonical form. -/

namespace Sys2Proof.Machine

/-- A filter by address does not touch the lookup of an address it keeps, and hides one it drops. -/
theorem lookup_filter_key (q : Nat → Bool) (cells : List Host.Cell) (x : Nat) :
    (cells.filter fun c => q c.1).lookup x = if q x then cells.lookup x else none := by
  induction cells with
  | nil => simp
  | cons c cells ih =>
    obtain ⟨y, v⟩ := c
    by_cases hxy : x = y
    · subst hxy
      by_cases hq : q x <;> simp [hq, ih]
    · have hne : (x == y) = false := by simpa using hxy
      by_cases hq : q y <;> simp [hq, ih, List.lookup_cons, hne]

theorem lookup_cellsFrom (base : Nat) (bs : List Byte) (x : Nat) :
    (cellsFrom base bs).lookup x = if base ≤ x then bs[x - base]? else none := by
  induction bs generalizing base with
  | nil => simp [cellsFrom]
  | cons b bs ih =>
    rw [cellsFrom, List.lookup_cons, ih]
    by_cases hx : x = base
    · subst hx; simp
    · have hne : (x == base) = false := by simpa using hx
      rw [hne]
      by_cases hle : base ≤ x
      · have h1 : base + 1 ≤ x := by omega
        have h2 : x - base = (x - (base + 1)) + 1 := by omega
        simp [h1, hle, h2]
      · have h1 : ¬ base + 1 ≤ x := by omega
        simp [h1, hle]

theorem cellsFrom_bounds (bs : List Byte) (base : Nat) :
    ∀ c ∈ cellsFrom base bs, base ≤ c.1 ∧ c.1 < base + bs.length := by
  induction bs generalizing base with
  | nil => simp [cellsFrom]
  | cons v bs ih =>
    intro c hc
    rcases List.mem_cons.1 (by simpa [cellsFrom] using hc : c ∈ (base, v) :: cellsFrom (base + 1) bs) with rfl | hc
    · simp
    · have := ih (base + 1) c hc
      simp; omega

/-- All a store does to the bytes: a stored address holds its new byte, every other address what it held (R68, R71). -/
theorem read_store (m : Memory) (base : Nat) (bs : List Byte) (x : Nat) :
    (m.store base bs).read x = if base ≤ x then (bs[x - base]?).getD (m.read x) else m.read x := by
  have h1 := lookup_filter_key (fun y => decide (y < base)) m.cells x
  have h2 := lookup_filter_key (fun y => decide (base + bs.length ≤ y)) m.cells x
  simp only [decide_eq_true_eq] at h1 h2
  simp only [Memory.read, Memory.store, List.lookup_append, lookup_cellsFrom, h1, h2]
  by_cases hb : base ≤ x
  · have hlt : ¬ x < base := by omega
    by_cases he : base + bs.length ≤ x
    · have : bs[x - base]? = none := List.getElem?_eq_none (by omega)
      simp [hb, hlt, he, this]
    · have hlen : x - base < bs.length := by omega
      simp [hb, hlt, he, List.getElem?_eq_getElem hlen]
  · have hlt : x < base := by omega
    have he : ¬ base + bs.length ≤ x := by omega
    simp [hb, hlt, he]

/-- A stored address reads as the byte stored there. -/
theorem read_store_mem {m : Memory} {base : Nat} {bs : List Byte} {i : Nat} (h : i < bs.length) :
    (m.store base bs).read (base + i) = bs[i] := by
  simp [read_store, List.getElem?_eq_getElem h]

/-- An address outside the stored bytes reads as before. -/
theorem read_store_outside {m : Memory} {base : Nat} {bs : List Byte} {x : Nat}
    (h : Range.has { base := base, len := bs.length } x = false) : (m.store base bs).read x = m.read x := by
  rw [read_store]
  by_cases hb : base ≤ x
  · have hx : ¬ x < base + bs.length := fun hlt => by simp [Range.has, hb, hlt] at h
    have : bs[x - base]? = none := List.getElem?_eq_none (by omega)
    simp [hb, this]
  · simp [hb]

/-- Reading `n` bytes that were just stored gives them back. -/
theorem readBytes_store (m : Memory) (base : Nat) (bs : List Byte) :
    (m.store base bs).readBytes base bs.length = bs := by
  refine List.ext_getElem (by simp [Memory.readBytes]) fun i h1 h2 => ?_
  simpa [Memory.readBytes] using read_store_mem h2

/-- Storing the same bytes at the same place twice is storing them once. -/
theorem store_store (m : Memory) (base : Nat) (bs : List Byte) :
    (m.store base bs).store base bs = m.store base bs := by
  have hmid1 : (cellsFrom base bs).filter (fun c => decide (c.1 < base)) = [] := by
    simp only [List.filter_eq_nil_iff, decide_eq_true_eq]
    intro c hcm; have := cellsFrom_bounds bs base c hcm; omega
  have hmid2 : (cellsFrom base bs).filter (fun c => decide (base + bs.length ≤ c.1)) = [] := by
    simp only [List.filter_eq_nil_iff, decide_eq_true_eq]
    intro c hcm; have := cellsFrom_bounds bs base c hcm; omega
  have hlo : ∀ l : List Host.Cell, (l.filter fun c => decide (base + bs.length ≤ c.1)).filter
      (fun c => decide (c.1 < base)) = [] := by
    intro l
    simp only [List.filter_filter, List.filter_eq_nil_iff]
    intro c _; simp; omega
  have hhi : ∀ l : List Host.Cell, (l.filter fun c => decide (c.1 < base)).filter
      (fun c => decide (base + bs.length ≤ c.1)) = [] := by
    intro l
    simp only [List.filter_filter, List.filter_eq_nil_iff]
    intro c _; simp; omega
  simp [Memory.store, List.filter_append, hmid1, hmid2, hlo, hhi, List.filter_filter]

/-- `MemRead` gives the same number in two memories that agree on the bytes it reads. -/
theorem readNum_congr {m m' : Memory} (n : Nat) {x : Nat}
    (h : ∀ i < n, m'.read (x + i) = m.read (x + i)) : m'.readNum x n = m.readNum x n := by
  induction n generalizing x with
  | zero => rfl
  | succ n ih =>
    have h0 := h 0 (by omega)
    rw [Memory.readNum, Memory.readNum, ih fun i hi => ?_]
    · rw [show m'.read x = m.read x by simpa using h0]
    · simpa [Nat.add_comm, Nat.add_left_comm, Nat.add_assoc] using h (i + 1) (by omega)

/-! ## The canonical form -/

theorem cellsFrom_rising (bs : List Byte) (base : Nat) : (cellsFrom base bs).Pairwise fun c d => c.1 < d.1 := by
  induction bs generalizing base with
  | nil => simp [cellsFrom]
  | cons v bs ih =>
    rw [cellsFrom, List.pairwise_cons]
    exact ⟨fun c hc => (cellsFrom_bounds bs (base + 1) c hc).1, ih (base + 1)⟩

/-- The parts of the canonical form. -/
theorem memory_wf_iff (m : Memory) :
    m.wf = true ↔ 0 < m.size ∧ m.size ≤ 2 ^ 32 ∧ (m.cells.Pairwise fun c d => c.1 < d.1) ∧ ∀ c ∈ m.cells, c.1 < m.size := by
  simp only [Memory.wf, Bool.and_eq_true, decide_eq_true_eq, List.all_eq_true, and_assoc]

/-- A store into a valid range keeps the canonical form. -/
theorem wf_store {m : Memory} (h : m.wf = true) {base : Nat} {bs : List Byte}
    (hv : Range.valid { base := base, len := bs.length } m = true) : (m.store base bs).wf = true := by
  rw [memory_wf_iff] at h ⊢
  obtain ⟨hpos, hle, hrise, hin⟩ := h
  refine ⟨hpos, hle, ?_, ?_⟩
  · simp only [Memory.store, List.append_assoc, List.pairwise_append, List.mem_append, List.mem_filter, decide_eq_true_eq]
    refine ⟨hrise.sublist List.filter_sublist, ⟨cellsFrom_rising bs base, hrise.sublist List.filter_sublist, ?_⟩, ?_⟩
    · rintro c hc d ⟨-, hd⟩
      have := cellsFrom_bounds bs base c hc
      omega
    · rintro c ⟨-, hc⟩ d (hd | ⟨-, hd⟩)
      · have := cellsFrom_bounds bs base d hd
        omega
      · omega
  · simp only [Memory.store, List.mem_append, List.mem_filter, decide_eq_true_eq]
    rintro c ((⟨hc, -⟩ | hc) | ⟨hc, -⟩)
    · exact hin c hc
    · have hb := cellsFrom_bounds bs base c hc
      simp only [Range.valid, Bool.or_eq_true, decide_eq_true_eq] at hv
      omega
    · exact hin c hc

/-- A memory with nothing written is in canonical form if its size is legal. -/
theorem wf_fresh {size draw : Nat} (hpos : 0 < size) (hle : size ≤ 2 ^ 32) : (Memory.fresh size draw).wf = true := by
  exact (memory_wf_iff _).2 ⟨hpos, hle, by simp, by simp⟩

/-- MEM_SIZE at reset is a legal size (R13). -/
theorem memSize_legal : 0 < Config.memSize ∧ Config.memSize ≤ 2 ^ 32 := by
  have := Config.lastAddress.isLt
  simp only [Config.memSize, u32]
  omega

/-- The memory at reset is in canonical form. -/
theorem wf_reset : State.reset.mem.wf = true := wf_fresh memSize_legal.1 memSize_legal.2

end Sys2Proof.Machine
end

