-- ==== Sys2Proof/Laws/Buffers.lean ====
section
/-! SUPPORT. The buffers commands write, entry by entry: RGBA buffers (spec/10_state.md R50), byte arrays (R51, R53) and counts
(R54), and what they read as once stored. -/

namespace Sys2Proof.Machine

@[simp] theorem length_numBytes (n v : Nat) : (numBytes n v).length = n := by simp [numBytes]

@[simp] theorem length_readBytes (m : Memory) (x n : Nat) : (m.readBytes x n).length = n := by simp [Memory.readBytes]

@[simp] theorem length_bytes (p : Pixel) : p.bytes.length = 4 := rfl

theorem pixelBytes_succ (n : Nat) (f : Nat → Pixel) : pixelBytes (n + 1) f = pixelBytes n f ++ (f n).bytes := by
  simp [pixelBytes, List.range_succ]

@[simp] theorem length_pixelBytes (n : Nat) (f : Nat → Pixel) : (pixelBytes n f).length = 4 * n := by
  induction n with
  | zero => rfl
  | succ n ih => rw [pixelBytes_succ, List.length_append, ih, length_bytes]; ring

@[simp] theorem length_imageBytes (w h : Nat) (f : Nat → Nat → Pixel) : (imageBytes w h f).length = 4 * (w * h) := by
  simp [imageBytes]

theorem countBytes_succ (n : Nat) (f : Nat → Nat) : countBytes (n + 1) f = countBytes n f ++ numBytes 4 (f n) := by
  simp [countBytes, List.range_succ]

@[simp] theorem length_countBytes (n : Nat) (f : Nat → Nat) : (countBytes n f).length = 4 * n := by
  induction n with
  | zero => rfl
  | succ n ih => rw [countBytes_succ, List.length_append, ih, length_numBytes]; ring

/-- Byte `c` of the four bytes of a pixel is its channel `c`. -/
theorem getElem?_bytes (p : Pixel) {c : Nat} (hc : c < 4) : p.bytes[c]? = some (p.chan c) := by
  interval_cases c <;> rfl

/-- Channel `c` of pixel `i` stands at offset `4*i + c` of an RGBA buffer (R50). -/
theorem getElem?_pixelBytes {n i c : Nat} (f : Nat → Pixel) (hi : i < n) (hc : c < 4) :
    (pixelBytes n f)[4 * i + c]? = some ((f i).chan c) := by
  induction n with
  | zero => omega
  | succ n ih =>
    rw [pixelBytes_succ]
    by_cases h : i < n
    · rw [List.getElem?_append_left (by simp; omega), ih h]
    · obtain rfl : i = n := by omega
      rw [List.getElem?_append_right (by simp)]
      simp [getElem?_bytes _ hc]

/-- Count `v` of a buffer of counts is the four bytes at offset `4*v` (R54). -/
theorem getElem?_countBytes {n v j : Nat} (f : Nat → Nat) (hv : v < n) (hj : j < 4) :
    (countBytes n f)[4 * v + j]? = (numBytes 4 (f v))[j]? := by
  induction n with
  | zero => omega
  | succ n ih =>
    rw [countBytes_succ]
    by_cases h : v < n
    · rw [List.getElem?_append_left (by simp; omega), ih h]
    · obtain rfl : v = n := by omega
      rw [List.getElem?_append_right (by simp)]
      simp

/-- Pixel `i` of a stored RGBA buffer reads as the pixel it was made of. -/
theorem rgba_store_pixelBytes (m : Memory) (base n i : Nat) (f : Nat → Pixel) (hi : i < n) :
    (m.store base (pixelBytes n f)).rgba base i = f i := by
  have key : ∀ c < 4, (m.store base (pixelBytes n f)).read (base + 4 * i + c) = (f i).chan c := by
    intro c hc
    rw [read_store, if_pos (by omega), show base + 4 * i + c - base = 4 * i + c by omega, getElem?_pixelBytes f hi hc]
    rfl
  have h0 := key 0 (by omega)
  have h1 := key 1 (by omega)
  have h2 := key 2 (by omega)
  have h3 := key 3 (by omega)
  simp only [Nat.add_zero] at h0
  simp [Memory.rgba, h0, h1, h2, h3, Pixel.chan]

/-- Pixel `(x, y)` of a stored image reads as the pixel it was made of (R20). -/
theorem px_store_imageBytes (m : Memory) (base w h x y : Nat) (f : Nat → Nat → Pixel) (hx : x < w) (hy : y < h) :
    (m.store base (imageBytes w h f)).px base w x y = f x y := by
  have hi : y * w + x < w * h := by
    calc y * w + x < y * w + w := by omega
      _ = (y + 1) * w := by ring
      _ ≤ h * w := Nat.mul_le_mul_right w hy
      _ = w * h := Nat.mul_comm h w
  rw [Memory.px, imageBytes, rgba_store_pixelBytes _ _ _ _ _ hi]
  have hw : 0 < w := by omega
  rw [show y * w + x = x + w * y by ring, Nat.add_mul_mod_self_left, Nat.mod_eq_of_lt hx,
    Nat.add_mul_div_left _ _ hw, Nat.div_eq_of_lt hx, Nat.zero_add]

/-- `MemWrite` and then `MemRead` of a number gives it modulo `256^n` (R61). -/
theorem readNum_numBytes {m : Memory} {x : Nat} (n v : Nat)
    (h : ∀ i < n, m.read (x + i) = BitVec.ofNat 8 (v / 256 ^ (n - 1 - i))) : m.readNum x n = v % 256 ^ n := by
  induction n generalizing x with
  | zero => simp [Memory.readNum, Nat.mod_one]
  | succ n ih =>
    have h0 : m.read x = BitVec.ofNat 8 (v / 256 ^ n) := by simpa using h 0 (by omega)
    have hrest : m.readNum (x + 1) n = v % 256 ^ n := ih fun i hi => by
      have := h (i + 1) (by omega)
      rw [show x + (i + 1) = x + 1 + i by omega, show n + 1 - 1 - (i + 1) = n - 1 - i by omega] at this
      exact this
    have h1 : v % (256 ^ n * 256) = v % 256 ^ n + 256 ^ n * (v / 256 ^ n % 256) := Nat.mod_mul
    rw [Memory.readNum, hrest, h0, BitVec.toNat_ofNat, pow_succ 256 n, h1]
    norm_num
    ring

/-- Count `v` of a stored buffer of counts reads as that count, if it fits four bytes (R54). -/
theorem readNum_store_countBytes (m : Memory) (base n v : Nat) (f : Nat → Nat) (hv : v < n) (hf : f v < 2 ^ 32) :
    (m.store base (countBytes n f)).readNum (base + 4 * v) 4 = f v := by
  rw [readNum_numBytes 4 (f v), Nat.mod_eq_of_lt (by simpa using hf)]
  intro i hi
  rw [read_store, if_pos (by omega), show base + 4 * v + i - base = 4 * v + i by omega, getElem?_countBytes f hv hi]
  simp [numBytes, hi]

end Sys2Proof.Machine
end

