-- ==== Sys2Proof/Laws/Commands.lean ====
section
/-! SUPPORT. What a command can do, said once: the ordered checks (spec/60 R250), the two ends of a command (R247, R37), and for
every command the bytes it writes (spec/20_memory.md R68). -/

namespace Sys2Proof.Machine

/-- No check fails iff every check passes. -/
theorem firstFailing_eq_none {l : List (Bool × CoreError)} : firstFailing l = none ↔ ∀ c ∈ l, c.1 = true := by
  induction l with
  | nil => simp [firstFailing]
  | cons c l ih =>
    obtain ⟨b, e⟩ := c
    cases b <;> simp [firstFailing, ih]

/-- The reported error is one of a check that failed. -/
theorem firstFailing_mem {l : List (Bool × CoreError)} {e : CoreError} (h : firstFailing l = some e) : (false, e) ∈ l := by
  induction l with
  | nil => simp [firstFailing] at h
  | cons c l ih =>
    obtain ⟨b, e'⟩ := c
    cases b with
    | false => simp [firstFailing] at h; simp [h]
    | true => exact List.mem_cons_of_mem _ (ih (by simpa [firstFailing] using h))

/-- The checks of a list hold up to the first that fails. -/
theorem firstFailing_cons (b : Bool) (e : CoreError) (l : List (Bool × CoreError)) :
    firstFailing ((b, e) :: l) = if b then firstFailing l else some e := rfl

/-- What a command can leave: its first failing check's error and nothing else, or its effect (R67, R68, R247). -/
theorem commandState_cases (l : List (Bool × CoreError)) (f : State → State) (s : State) :
    (∃ e, firstFailing l = some e ∧ commandState l f s = raised e s)
      ∨ (firstFailing l = none ∧ commandState l f s = (f s).ended doneStatus) := by
  unfold commandState
  cases h : firstFailing l with
  | none => exact .inr ⟨rfl, rfl⟩
  | some e => exact .inl ⟨e, rfl, rfl⟩

theorem commandState_of_none {l : List (Bool × CoreError)} (h : firstFailing l = none) (f : State → State) (s : State) :
    commandState l f s = (f s).ended doneStatus := by
  simp [commandState, h]

theorem commandState_of_some {l : List (Bool × CoreError)} {e : CoreError} (h : firstFailing l = some e)
    (f : State → State) (s : State) : commandState l f s = raised e s := by
  simp [commandState, h]

/-- Every command by its tables: checks, destination, output, results. -/
theorem exec_eq (i : Instr) (s : State) :
    exec i s = .next (commandState (checks i s) (fun s => s.wrote (destination i s).base (output i s) (results i s)) s) := by
  cases i <;> rfl

/-- Every command ends in a next state (R258, R279). -/
theorem exec_next (i : Instr) (s : State) : ∃ t, exec i s = .next t := ⟨_, exec_eq i s⟩

/-- What a command's next state is: the first failing check's error, or the stored output, the results and a clean STATUS. -/
theorem exec_cases {i : Instr} {s t : State} (h : exec i s = .next t) :
    (∃ e, firstFailing (checks i s) = some e ∧ t = raised e s)
      ∨ (firstFailing (checks i s) = none
          ∧ t = (s.wrote (destination i s).base (output i s) (results i s)).ended doneStatus) := by
  rw [exec_eq] at h
  injection h with h
  subst h
  exact commandState_cases _ _ _

/-- A command all of whose checks pass has its effect. -/
theorem exec_of_checks {i : Instr} {s : State} (h : ∀ c ∈ checks i s, c.1 = true) :
    exec i s = .next ((s.wrote (destination i s).base (output i s) (results i s)).ended doneStatus) := by
  rw [exec_eq, commandState_of_none (firstFailing_eq_none.2 h)]

/-- A command whose first failing check names `e` ends with that error and nothing else. -/
theorem exec_of_failing {i : Instr} {s : State} {e : CoreError} (h : firstFailing (checks i s) = some e) :
    exec i s = .next (raised e s) := by
  rw [exec_eq, commandState_of_some h]

@[simp] theorem length_gb7Header (mask : Bool) (w h : Nat) : (gb7Header mask w h).length = 12 := by
  simp [gb7Header]

/-- A command's output fills its destination range exactly (R68). -/
theorem length_output (i : Instr) (s : State) : (output i s).length = (destination i s).len := by
  cases i with
  | norm ao fo => simp [output, destination, normBytes, normDest]
  | gb7dec => simp [output, destination, gb7decBytes, gb7decDest]
  | gb7enc fo => simp [output, destination, gb7encFile, gb7encDest, gb7HeaderSize]
  | lutbuild d7 => simp [output, destination, lutbuildBytes, lutbuildDest]
  | curve lr lg lb la => simp [output, destination, curveBytes, curveDest]
  | curveg7 yl am inv cmb => simp [output, destination, curveg7Bytes, curveg7Dest]
  | hist ao => cases ao <;> simp [output, destination, histBytes, histDest]
  | histg7 => simp [output, destination, histg7Bytes, histg7Dest]
  | convrgb ksel => simp [output, destination, convrgbBytes, convDest]
  | conva ksel => simp [output, destination, convaBytes, convDest]
  | rsnn => simp [output, destination, rsnnBytes, resampleDest]
  | rsbl => simp [output, destination, rsblBytes, resampleDest]
  | render bl => simp [output, destination, renderBytes, renderDest]

/-- Outside its destination a stored output leaves memory as it was. -/
theorem read_wrote_outside {i : Instr} {s : State} {r : Vector Word 6} {x : Nat}
    (h : (destination i s).has x = false) :
    (s.wrote (destination i s).base (output i s) r).mem.read x = s.mem.read x := by
  rw [wrote_mem]
  apply read_store_outside
  rw [length_output]
  exact h

/-- The frame of a stored output. -/
theorem frame_wrote (i : Instr) (s : State) (r : Vector Word 6) (w : Word) :
    Frame (destination i s) s ((s.wrote (destination i s).base (output i s) r).ended w) where
  operands := rfl
  kernel := rfl
  divisor := rfl
  bias := rfl
  size := rfl
  draw := rfl
  pending := rfl
  reply := rfl
  memory _ hx := read_wrote_outside (r := r) hx

/-- A drawn layer's data lies clear of the destination (R222). -/
theorem dataRange_of_drawn {s : State} {l : Layer} (h : l ∈ drawnLayers s) : (renderDest s).meets l.dataRange = false := by
  have hd : l.dataRange.meets (renderDest s) = false := by
    simp only [drawnLayers, List.mem_filter, isDrawn, malformed, Bool.and_eq_true, Bool.not_eq_true', Bool.or_eq_false_iff] at h
    exact h.2.1.1.2.2
  rw [Bool.eq_false_iff, ne_eq, meets_iff] at hd ⊢
  exact fun hm => hd ⟨hm.2.1, hm.1, hm.2.2.2, hm.2.2.1⟩

/-- A command all of whose checks pass writes no byte that it reads (R69). -/
theorem destination_meets_sources {i : Instr} {s : State} (h : firstFailing (checks i s) = none) {g : Range}
    (hg : g ∈ sources i s) : (destination i s).meets g = false := by
  rw [firstFailing_eq_none] at h
  cases i with
  | lutbuild d7 => simp [sources] at hg
  | render bl =>
    rcases List.mem_cons.1 hg with rfl | hg
    · simp [checks, renderChecks] at h
      exact h.2.2
    · obtain ⟨l, hl, rfl⟩ := List.mem_map.1 hg
      exact dataRange_of_drawn hl
  | _ =>
    simp_all [checks, sources, destination, normChecks, gb7decChecks, gb7encChecks, curveChecks, curveg7Checks, histChecks,
      histg7Checks, convChecks, resampleChecks]
    try (rcases hg with rfl | rfl | rfl | rfl | rfl <;> simp_all)

end Sys2Proof.Machine
end

