-- ==== Sys2Proof/Laws/PerInstr.lean ====
section
/-! SUPPORT. Families of statements about every instruction as syntax, one lemma per constructor of `Instr`. -/

namespace Sys2Proof

/-- `mask` of the command's row of spec/opcode_table.json: the opcode bits and every flag bit the command does not define
(spec/30_encoding.md R95). -/
def Laws.EncodeRow.mask : Instr → Word
  | .norm _ _ => 0xFFFFFCFF#32
  | .gb7dec => 0xFFFFFFFF#32
  | .gb7enc _ => 0xFFFFFDFF#32
  | .lutbuild _ => 0xFFFFFEFF#32
  | .curve _ _ _ _ => 0xFFFFF0FF#32
  | .curveg7 _ _ _ _ => 0xFFFFC0FF#32
  | .hist _ => 0xFFFFFEFF#32
  | .histg7 => 0xFFFFFFFF#32
  | .convrgb _ => 0xFFFFF8FF#32
  | .conva _ => 0xFFFFF8FF#32
  | .rsnn => 0xFFFFFFFF#32
  | .rsbl => 0xFFFFFFFF#32
  | .render _ => 0xFFFFFEFF#32

/-- `match` of the command's row of spec/opcode_table.json (R95). -/
def Laws.EncodeRow.pattern : Instr → Word
  | .norm _ _ => 0x00000001#32
  | .gb7dec => 0x00000002#32
  | .gb7enc _ => 0x00000003#32
  | .lutbuild _ => 0x00000004#32
  | .curve _ _ _ _ => 0x00000005#32
  | .curveg7 _ _ _ _ => 0x00000006#32
  | .hist _ => 0x00000007#32
  | .histg7 => 0x00000008#32
  | .convrgb _ => 0x00000009#32
  | .conva _ => 0x0000000A#32
  | .rsnn => 0x0000000B#32
  | .rsbl => 0x0000000C#32
  | .render _ => 0x0000000D#32

/-- A command's word selects the command's own row of the opcode table (R95). -/
def Laws.EncodeRow.Statement (i : Instr) : Prop := encode i &&& Laws.EncodeRow.mask i = Laws.EncodeRow.pattern i

theorem Laws.EncodeRow.norm (ao fo : Bool) : Laws.EncodeRow.Statement (.norm ao fo) := by
  cases ao <;> cases fo <;> rfl

theorem Laws.EncodeRow.gb7dec : Laws.EncodeRow.Statement .gb7dec := rfl

theorem Laws.EncodeRow.gb7enc (fo : Bool) : Laws.EncodeRow.Statement (.gb7enc fo) := by
  cases fo <;> rfl

theorem Laws.EncodeRow.lutbuild (d7 : Bool) : Laws.EncodeRow.Statement (.lutbuild d7) := by
  cases d7 <;> rfl

theorem Laws.EncodeRow.curve (lr lg lb la : Bool) : Laws.EncodeRow.Statement (.curve lr lg lb la) := by
  cases lr <;> cases lg <;> cases lb <;> cases la <;> rfl

theorem Laws.EncodeRow.curveg7 (yl : Bool) (am : AlphaMode) (inv : Bool) (cmb : Combine) :
    Laws.EncodeRow.Statement (.curveg7 yl am inv cmb) := by
  cases yl <;> cases am <;> cases inv <;> cases cmb <;> rfl

theorem Laws.EncodeRow.hist (ao : Bool) : Laws.EncodeRow.Statement (.hist ao) := by
  cases ao <;> rfl

theorem Laws.EncodeRow.histg7 : Laws.EncodeRow.Statement .histg7 := rfl

theorem Laws.EncodeRow.convrgb (ksel : KernelSel) : Laws.EncodeRow.Statement (.convrgb ksel) := by
  cases ksel <;> rfl

theorem Laws.EncodeRow.conva (ksel : KernelSel) : Laws.EncodeRow.Statement (.conva ksel) := by
  cases ksel <;> rfl

theorem Laws.EncodeRow.rsnn : Laws.EncodeRow.Statement .rsnn := rfl

theorem Laws.EncodeRow.rsbl : Laws.EncodeRow.Statement .rsbl := rfl

theorem Laws.EncodeRow.render (bl : Bool) : Laws.EncodeRow.Statement (.render bl) := by
  cases bl <;> rfl

end Sys2Proof
end

