-- ==== Sys2Proof/Tests/Slice0.lean ====
section
/-! SUPPORT. Small tests of single steps, each with values of spec/95_test_vectors.md or of a worked example of a rule, and a witness
for the hypotheses of each statement. -/

namespace Sys2Proof.Tests

open Sys2Proof Sys2Proof.Machine

-- One declaration after another: the kernel evaluations side by side ask for more threads than the memory limit allows.
set_option Elab.async false

/-! ## Well-formedness: every check refuses an ill-formed term -/

theorem test_wf_refuses_reserved_combine : (Instr.curveg7 true .threshold false .reserved3).wf = false := by decide

theorem test_wf_refuses_reserved_kernel_rgb : (Instr.convrgb .reserved7).wf = false := by decide

theorem test_wf_refuses_reserved_kernel_alpha : (Instr.conva .reserved7).wf = false := by decide

theorem test_wf_accepts_legal : (Instr.curveg7 true .threshold true .or).wf = true := by decide

/-! ## Decoding: one word per constructor, written out bit by bit from R80, R82, R83 (flags in bits 31:8, opcode in bits 7:0) -/

theorem test_decode_norm :
    decode 0b00000000_00000000_00000011_00000001#32 = .ok (.norm true true)
      ∧ decode 0b00000000_00000000_00000001_00000001#32 = .ok (.norm true false) := by decide

theorem test_decode_gb7dec : decode 0b00000000_00000000_00000000_00000010#32 = .ok .gb7dec := by decide

theorem test_decode_gb7enc : decode 0b00000000_00000000_00000010_00000011#32 = .ok (.gb7enc true) := by decide

theorem test_decode_lutbuild : decode 0b00000000_00000000_00000001_00000100#32 = .ok (.lutbuild true) := by decide

theorem test_decode_curve :
    decode 0b00000000_00000000_00000001_00000101#32 = .ok (.curve true false false false)
      ∧ decode 0b00000000_00000000_00001110_00000101#32 = .ok (.curve false true true true) := by decide

/-- The example of R93: `CURVEG7 ylut, threshold, invert, or` is 0x00002F06. -/
theorem test_decode_curveg7 :
    decode 0b00000000_00000000_00101111_00000110#32 = .ok (.curveg7 true .threshold true .or)
      ∧ decode 0b00000000_00000000_00010010_00000110#32 = .ok (.curveg7 false .opaque false .replace) := by decide

theorem test_decode_hist : decode 0b00000000_00000000_00000001_00000111#32 = .ok (.hist true) := by decide

theorem test_decode_histg7 : decode 0b00000000_00000000_00000000_00001000#32 = .ok .histg7 := by decide

theorem test_decode_convrgb :
    decode 0b00000000_00000000_00000010_00001001#32 = .ok (.convrgb .sharpen)
      ∧ decode 0b00000000_00000000_00000110_00001001#32 = .ok (.convrgb .prewittY) := by decide

theorem test_decode_conva : decode 0b00000000_00000000_00000100_00001010#32 = .ok (.conva .boxBlur) := by decide

theorem test_decode_rsnn : decode 0b00000000_00000000_00000000_00001011#32 = .ok .rsnn := by decide

theorem test_decode_rsbl : decode 0b00000000_00000000_00000000_00001100#32 = .ok .rsbl := by decide

theorem test_decode_render : decode 0b00000000_00000000_00000001_00001101#32 = .ok (.render true) := by decide

/-- Vectors IL1 to IL10: the three sub-causes. -/
theorem test_decode_illegal :
    decode 0x0000000E#32 = .error .unassignedOpcode ∧ decode 0x80000001#32 = .error .undefinedFlag
      ∧ decode 0x00000103#32 = .error .undefinedFlag ∧ decode 0x00004006#32 = .error .undefinedFlag
      ∧ decode 0x00003006#32 = .error .reservedField ∧ decode 0x0000070A#32 = .error .reservedField := by decide

/-! ## Steps on small states (MEM_SIZE = 0x10000, as in spec/95_test_vectors.md) -/

/-- A state with the operand registers `a`, the bytes of `stores` in memory and the pending events `pending`. -/
def small (a : Vector Word 7) (stores : List (Nat × List Byte)) (pending : List HostEvent) : State :=
  { a := a, k := #v[0, 0, 0, 0, 1, 0, 0, 0, 0], kdiv := 0xFFFFFFFF, kbias := 255, r := #v[9, 9, 9, 9, 9, 9], status := 0
    mem := stores.foldl (fun m c => m.store c.1 c.2) (Memory.fresh 0x10000 0), pending := pending, reply := .none }

/-- The state after a command, or the state itself where it has none. -/
def after (i : Instr) (s : State) : State :=
  match exec i s with
  | .next t => t
  | .fault _ => s
  | .refused _ => s

/-- The state after a step, or the state itself where it has none. -/
def stepped (s : State) : State :=
  match step s with
  | .next t => t
  | .fault _ => s
  | .refused _ => s

/-- `DESC(kind, flags, blend, w, h, data, opacity)` of spec/95_test_vectors.md. -/
def desc (kind flags blend : Byte) (w h data opacity : Nat) : List Byte :=
  [kind, flags, blend, 0] ++ numBytes 4 w ++ numBytes 4 h ++ numBytes 4 data ++ numBytes 4 opacity
    ++ List.replicate 12 0

/-- NM8 to NM12's Gb7 layer, two pixels of it. -/
def gb7Layer : State :=
  small #v[0x100, 0x400, 0, 0, 0, 0, 0] [(0x100, desc 1 1 0 2 2 0x300 0), (0x300, [0x00, 0x7F, 0x80, 0xFF])] []

/-- The worked example of R117. -/
theorem test_norm_gb7 :
    (after (.norm false false) gb7Layer).mem.readBytes 0x400 16
      = [0x00, 0x00, 0x00, 0x00, 0xFF, 0xFF, 0xFF, 0x00, 0x00, 0x00, 0x00, 0xFF, 0xFF, 0xFF, 0xFF, 0xFF] := by
  decide +kernel

/-- Vector NM5: `alphaonly` of a Raster layer. -/
theorem test_norm_alpha_only :
    (after (.norm true false)
      (small #v[0x100, 0x400, 0, 0, 0, 0, 0]
        [(0x100, desc 0 0 0 2 1 0x300 0), (0x300, [0x0A, 0x14, 0x1E, 0x28, 0x32, 0x3C, 0x46, 0x00])] [])).mem.readBytes 0x400 8
      = [0x28, 0x28, 0x28, 0xFF, 0x00, 0x00, 0x00, 0xFF] := by decide +kernel

/-- The file of R141 at 0x400. -/
def gb7FileState : State :=
  small #v[0x400, 16, 0x500, 0, 0, 0, 0]
    [(0x400, [0x47, 0x42, 0x37, 0x1D, 1, 1, 0, 2, 0, 2, 0, 0, 0x00, 0x7F, 0x80, 0xFF])] []

/-- Vector DC1. -/
theorem test_gb7dec :
    (after .gb7dec gb7FileState).mem.readBytes 0x500 4 = [0x00, 0x7F, 0x80, 0xFF]
      ∧ (after .gb7dec gb7FileState).r = #v[2, 2, 1, 9, 9, 9] := by decide +kernel

/-- Vector DC7: the magic is checked before the version. -/
theorem test_gb7dec_bad_magic :
    (after .gb7dec (small #v[0x400, 16, 0x500, 0, 0, 0, 0]
      [(0x400, [0x47, 0x42, 0x37, 0x1E, 2, 1, 0, 2, 0, 2, 0, 0, 0, 0, 0, 0])] [])).status = 0x00010201 := by decide +kernel

/-- R141: the re-encoded file. -/
theorem test_gb7enc :
    (after (.gb7enc false) gb7Layer).mem.readBytes 0x400 16
      = [0x47, 0x42, 0x37, 0x1D, 1, 1, 0, 2, 0, 2, 0, 0, 0x00, 0x7F, 0x80, 0xFF] := by decide +kernel

/-- The tie pixel of vector EN1 and its last: `(0, 14, 76, 255)` gives 0x88, `(3, 3, 3, 255)` gives 0x81. -/
theorem test_gb7enc_luma :
    encodePixel { r := 0, g := 14, b := 76, a := 255 } = 0x88 ∧ encodePixel { r := 3, g := 3, b := 3, a := 255 } = 0x81 := by
  decide +kernel

/-- Operands of vector LU8, swapped to `(100, 50)`, `(200, 10)`. -/
def lutState : State := small #v[200, 10, 100, 50, 0x1000, 0, 0] [] []

/-- Vector LU8. -/
theorem test_lutbuild :
    [0, 50, 100, 150, 200, 201, 228, 255].map (fun i => (after (.lutbuild false) lutState).mem.read (0x1000 + i))
      = [0, 25, 50, 30, 10, 14, 135, 255] := by decide +kernel

/-- Vectors LU10 and LU14: a tie, and the 127 domain. -/
theorem test_lutbuild_tie :
    [0, 1, 2, 3].map (lutEntry 255 (curvePoints 255 0 3 2 0)) = [3, 2, 0, 1]
      ∧ [1, 33, 112, 127].map (lutEntry 127 (curvePoints 127 32 16 96 112)) = [1, 18, 120, 127] := by decide +kernel

/-- One pixel `10 20 30 40` and a red table whose entry 0x10 is 0xEF (the example of R155). -/
def curveState : State :=
  small #v[0x100, 1, 0x200, 0x800, 0, 0, 0] [(0x100, [0x10, 0x20, 0x30, 0x40]), (0x810, [0xEF])] []

theorem test_curve :
    (after (.curve true false false false) curveState).mem.readBytes 0x200 4 = [0xEF, 0x20, 0x30, 0x40] := by
  decide +kernel

/-- Vector CU7: a table that is not inside the memory. -/
theorem test_curve_lut_bounds :
    (after (.curve true false false false) (small #v[0x100, 1, 0x200, 0xFF01, 0, 0, 0] [] [])).status = 0x00010404
      ∧ (after (.curve false true false false) (small #v[0x100, 1, 0x200, 0xFF01, 0, 0, 0] [] [])).status = 0x00010000 := by
  decide +kernel

/-- The source of vectors CG1 to CG9, threshold 10. -/
def g7State : State :=
  small #v[0x100, 8, 0x200, 0x800, 10, 0, 0] [(0x100, [0x00, 0x05, 0x0A, 0x7F, 0x80, 0x85, 0x8A, 0xFF])] []

/-- Vector CG9: `threshold, invert, or`. -/
theorem test_curveg7_or :
    (after (.curveg7 false .threshold true .or) g7State).mem.readBytes 0x200 8
      = [0x80, 0x85, 0x0A, 0x7F, 0x80, 0x85, 0x8A, 0xFF] := by decide +kernel

/-- Vector CG4: `threshold, and`. -/
theorem test_curveg7_and :
    (after (.curveg7 false .threshold false .and) g7State).mem.readBytes 0x200 8
      = [0x00, 0x05, 0x0A, 0x7F, 0x00, 0x05, 0x8A, 0xFF] := by decide +kernel

/-- The two pixels of R169's example. -/
def histState : State :=
  small #v[0x100, 2, 0x1000, 0, 0, 0, 0] [(0x100, [0x01, 0x02, 0x03, 0x04, 0x01, 0x02, 0x05, 0x04])] []

theorem test_hist_rgb :
    (after (.hist false) histState).mem.readNum (0x1000 + 4 * 1) 4 = 2
      ∧ (after (.hist false) histState).mem.readNum (0x1400 + 4 * 2) 4 = 2
      ∧ (after (.hist false) histState).mem.readNum (0x1800 + 4 * 5) 4 = 1
      ∧ (after (.hist false) histState).mem.readNum (0x1800 + 4 * 4) 4 = 0 := by decide +kernel

theorem test_hist_alpha : (after (.hist true) histState).mem.readNum (0x1000 + 4 * 4) 4 = 2 := by decide +kernel

/-- Vector HI6's source. -/
def histg7State : State :=
  small #v[0x100, 7, 0x1000, 0, 0, 0, 0] [(0x100, [0x00, 0x7F, 0x80, 0xFF, 0x05, 0x85, 0x05])] []

theorem test_histg7 :
    (after .histg7 histg7State).mem.readNum (0x1000 + 4 * 5) 4 = 3
      ∧ (after .histg7 histg7State).mem.readBytes 0x1200 8 = [0, 0, 0, 4, 0, 0, 0, 3] := by decide +kernel

/-- The 2×1 image of R189 and R190. -/
def convState : State :=
  small #v[0x100, 2, 1, 0x200, 0, 0, 0] [(0x100, [0x00, 0x00, 0x00, 0xFF, 0x64, 0x64, 0x64, 0x80])] []

/-- The example of R189. -/
theorem test_convrgb_sharpen :
    (after (.convrgb .sharpen) convState).mem.readBytes 0x200 8 = [0x00, 0x00, 0x00, 0xFF, 0xC8, 0xC8, 0xC8, 0x80] := by
  decide +kernel

/-- Vector CV8's negative on this image: centre 1, KDIV = -1, KBIAS = 255. -/
theorem test_convrgb_custom :
    (after (.convrgb .custom) convState).mem.readBytes 0x200 8 = [0xFF, 0xFF, 0xFF, 0xFF, 0x9B, 0x9B, 0x9B, 0x80] := by
  decide +kernel

/-- The example of R190. -/
theorem test_conva_box :
    (after (.conva .boxBlur) convState).mem.readBytes 0x200 8 = [0x00, 0x00, 0x00, 0xD5, 0x64, 0x64, 0x64, 0xAA] := by
  decide +kernel

/-- Vector CV18: a 1×1 image under Prewitt X has alpha 128. -/
theorem test_conva_prewitt :
    (after (.conva .prewittX) (small #v[0x100, 1, 1, 0x200, 0, 0, 0] [(0x100, [0x64, 0x96, 0xC8, 0x32])] [])).mem.readBytes 0x200 4
      = [0x64, 0x96, 0xC8, 0x80] := by decide +kernel

/-- The 2×1 source of R204's example, target 4×1. -/
def scaleState : State :=
  small #v[0x100, 2, 1, 0x200, 4, 1, 0] [(0x100, [0x00, 0x00, 0x00, 0xFF, 0x64, 0xC8, 0x32, 0x00])] []

/-- R202: a 2×1 source to 4×1 gives `p0 p0 p1 p1`. -/
theorem test_rsnn :
    (after .rsnn scaleState).mem.readBytes 0x200 16
      = [0x00, 0x00, 0x00, 0xFF, 0x00, 0x00, 0x00, 0xFF, 0x64, 0xC8, 0x32, 0x00, 0x64, 0xC8, 0x32, 0x00] := by decide +kernel

/-- The example of R204. -/
theorem test_rsbl :
    (after .rsbl scaleState).mem.readBytes 0x200 16
      = [0x00, 0x00, 0x00, 0xFF, 0x19, 0x32, 0x0D, 0xBF, 0x32, 0x64, 0x19, 0x80, 0x4B, 0x96, 0x26, 0x40] := by decide +kernel

/-- Vector RS14: the target is checked first. -/
theorem test_rsbl_target_first :
    (after .rsbl (small #v[0x100, 0, 2, 0x400, 0, 1, 0] [] [])).status = 0x00010102 := by decide +kernel

/-- The stack of vectors RN3 and RN6: a Raster 2×2 under a Flat grey with multiply and the opacity `op`. -/
def stack (op : Nat) : State :=
  small #v[0x100, 2, 0x10000, 0x10000, 0x800, 0, 0]
    [(0x400, [0xC8, 0x64, 0x32, 0xFF, 0xC8, 0x64, 0x32, 0xFF, 0xC8, 0x64, 0x32, 0x80, 0xC8, 0x64, 0x32, 0x00]),
      (0x100, desc 0 9 0 2 2 0x400 0x10000 ++ desc 2 8 1 2 2 0x808080 op)] []

/-- Vector RN6. -/
theorem test_render_multiply :
    (after (.render false) (stack 0x8000)).mem.readBytes 0x800 16
      = [0x96, 0x4B, 0x26, 0xFF, 0x96, 0x4B, 0x26, 0xFF, 0x8F, 0x5D, 0x44, 0xC0, 0x80, 0x80, 0x80, 0x80] := by decide +kernel

/-- Vector RN17: a Raster 5×1 over a Flat 2×1 is clipped on both sides, `dx = -2`. -/
theorem test_render_clips :
    let t := after (.render false) (small #v[0x100, 2, 0x10000, 0x10000, 0x800, 0, 0]
      [(0x500, [10, 0, 0, 255, 20, 0, 0, 255, 30, 0, 0, 255, 40, 0, 0, 255, 50, 0, 0, 255]),
        (0x100, desc 2 8 0 2 1 0 0x10000 ++ desc 0 9 0 5 1 0x500 0x10000)] [])
    t.mem.readBytes 0x800 8 = [30, 0, 0, 255, 40, 0, 0, 255] ∧ t.r = #v[2, 1, 0xFFFFFFFE, 0, 5, 1] := by decide +kernel

/-- The pixels of R236. -/
theorem test_composite :
    composite .overlay 1 { r := 200, g := 100, b := 50, a := 255 } { r := 128, g := 128, b := 128, a := 255 }
        = { r := 200, g := 100, b := 50, a := 255 }
      ∧ composite .screen 1 { r := 200, g := 100, b := 50, a := 255 } { r := 128, g := 128, b := 128, a := 255 }
        = { r := 228, g := 178, b := 153, a := 255 }
      ∧ composite .multiply 1 { r := 200, g := 100, b := 50, a := 128 } { r := 10, g := 20, b := 30, a := 128 }
        = { r := 72, g := 43, b := 29, a := 192 } := by decide +kernel

/-! ## The host's side -/

/-- Program P5's illegal word, by a CMD write. -/
theorem test_illegal_command_word :
    (stepped (small (Vector.replicate 7 0) [] [.regWrite 28 0x0000000E])).status = 0x00010103 := by decide +kernel

/-- A write to A3, then a read of it and of the read-only R0. -/
theorem test_register_events :
    let s := small (Vector.replicate 7 0) [] [.regWrite 3 0xABCD, .regWrite 20 7, .regRead 3, .regRead 20]
    (stepped (stepped (stepped s))).reply = .word 0xABCD
      ∧ (stepped (stepped (stepped (stepped s)))).reply = .word 9 := by decide +kernel

/-- A memory write, then a read one byte further on. -/
theorem test_memory_events :
    (stepped (stepped (small (Vector.replicate 7 0) [] [.memWrite 0xFFFC [1, 2, 3, 4], .memRead 0xFFFD 3]))).reply
      = .bytes [2, 3, 4] := by decide +kernel

/-! ## Witnesses: a state and operands that meet the hypotheses of each statement -/

/-- A state whose next event writes the word `w` to CMD. -/
def cmdState (w : Word) : State := small (Vector.replicate 7 0) [] [.regWrite 28 w]

theorem witness_unassignedOpcode :
    (cmdState 0x0E#32).pending = [.regWrite 28 0x0E#32] ∧ 14 ≤ (0x0E#32 : Word).toNat % 256
      ∧ (cmdState 0#32).pending = [.regWrite 28 0#32] ∧ (0#32 : Word).toNat % 256 = 0 := by decide

theorem witness_undefinedFlagBit :
    ((0x00004006#32 : Word).toNat % 256 = 6 ∧ (0x00004006#32 : Word).getLsbD 14 = true)
      ∧ (0x00000109#32 : Word).getLsbD 8 = true ∧ (0x00000103#32 : Word).getLsbD 8 = true
      ∧ 8 ∉ definedFlagBits ((0x00000103#32 : Word).toNat % 256) := by decide

/-- A word has no bit above 31, so its flag bits need looking at below 32 only. -/
theorem flagBits_below (w : Word) (l : List Nat) (h : ∀ n < 32, 8 ≤ n → w.getLsbD n = true → n ∈ l) (n : Nat) (hn : 8 ≤ n)
    (hb : w.getLsbD n = true) : n ∈ l := h n (BitVec.lt_of_getLsbD hb) hn hb

theorem witness_reservedField_curveg7 :
    (∀ n, 8 ≤ n → (0x00003006#32 : Word).getLsbD n = true → n ∈ definedFlagBits ((0x00003006#32 : Word).toNat % 256))
      ∧ (0x00003006#32 : Word).toNat % 256 = 6 ∧ (0x00003006#32 : Word).getLsbD 12 = true
      ∧ (0x00003006#32 : Word).getLsbD 13 = true :=
  ⟨fun n h hb => flagBits_below 0x00003006#32 _ (by decide) n h hb, by decide, by decide, by decide⟩

theorem witness_reservedField_conv :
    (∀ n, 8 ≤ n → (0x0000070A#32 : Word).getLsbD n = true → n ∈ definedFlagBits ((0x0000070A#32 : Word).toNat % 256))
      ∧ (0x0000070A#32 : Word).toNat % 256 = 10 ∧ (0x0000070A#32 : Word).getLsbD 8 = true
      ∧ (0x0000070A#32 : Word).getLsbD 9 = true ∧ (0x0000070A#32 : Word).getLsbD 10 = true :=
  ⟨fun n h hb => flagBits_below 0x0000070A#32 _ (by decide) n h hb, by decide, by decide, by decide, by decide⟩

theorem witness_stepRunsDecodedCommand :
    (cmdState 0x0B#32).pending = .regWrite 28 0x0B#32 :: [] ∧ decode 0x0B#32 = .ok .rsnn := by decide

/-- RegisterWriteAccess at the ends of its number ranges: 0, 6, 7, 8, 18, 19, 29. -/
theorem witness_registerWrite :
    ∀ n ∈ [0, 6, 7, 8, 16, 17, 18, 19, 20, 25, 26, 29, 30],
      (small (Vector.replicate 7 0) [] [.regWrite n 5]).pending = .regWrite n 5 :: [] ∧ n ≠ 28
        ∧ (readRegister n (stepped (small (Vector.replicate 7 0) [] [.regWrite n 5])) = 5
            ↔ n ≤ 6 ∨ (8 ≤ n ∧ n ≤ 18)) := by decide +kernel

/-- RegisterReadReturns at the ends of its number ranges. -/
theorem witness_registerRead :
    ∀ n ∈ [0, 6, 7, 8, 16, 17, 18, 19, 20, 25, 26, 27, 28, 29, 30],
      (small (Vector.replicate 7 0) [] [.regRead n]).pending = .regRead n :: [] := by decide

theorem witness_hostMemoryWriteThenRead :
    (small (Vector.replicate 7 0) [] [.memWrite 0xFFFF [7], .memRead 0xFFFF 1]).pending
        = .memWrite 0xFFFF [7] :: .memRead 0xFFFF [(7 : Byte)].length :: []
      ∧ u32 0xFFFF#32 + [(7 : Byte)].length ≤ (small (Vector.replicate 7 0) [] []).mem.size
      ∧ ([] : List Byte).length = 0 := by decide

theorem witness_hostMemoryOutside :
    (small (Vector.replicate 7 0) [] [.memWrite 0xFFFF [7, 8]]).pending = .memWrite 0xFFFF [7, 8] :: []
      ∧ (small (Vector.replicate 7 0) [] []).mem.size < u32 0xFFFF#32 + 2
      ∧ (small (Vector.replicate 7 0) [] [.memRead 0xFFFF 2]).pending = .memRead 0xFFFF 2 :: [] := by decide

theorem witness_resetEvent : (small (Vector.replicate 7 1) [] [.reset]).pending = .reset :: [] := by decide

/-- Both outcomes of StepStopsOnlyOutsideMemory. -/
theorem witness_stepStops :
    (∃ t, step (cmdState 0x0B#32) = .next t)
      ∧ ∃ r, step (small (Vector.replicate 7 0) [] [.memRead 0xFFFF 2]) = .refused r := ⟨⟨_, rfl⟩, ⟨_, rfl⟩⟩

theorem witness_stepKeepsWellFormed :
    (cmdState 0x04#32).wf = true ∧ (stepped (cmdState 0x04#32)).status = 0x00010000
      ∧ ∃ t, step (cmdState 0x04#32) = .next t := ⟨by decide +kernel, by decide +kernel, _, rfl⟩

/-- The hypotheses of the statements over all commands: a command that succeeds and one that ends with an error. -/
theorem witness_commands :
    (∃ t, exec (.lutbuild false) lutState = .next t) ∧ (after (.lutbuild false) lutState).status = 0x00010000#32
      ∧ (∃ t, exec .rsnn lutState = .next t) ∧ (after .rsnn lutState).status ≠ 0x00010000#32
      ∧ (Instr.lutbuild false).wf = true ∧ (destination (.lutbuild false) lutState).has 0xFFF = false
      ∧ (destination (.lutbuild false) lutState).has 0x1100 = false :=
  ⟨⟨_, rfl⟩, by decide +kernel, ⟨_, rfl⟩, by decide +kernel, by decide, by decide +kernel, by decide +kernel⟩

/-- CommandsWriteOnlyDestination and CommandsIgnoreStatusAndResults at the ends of the result count. -/
theorem witness_results :
    resultCount (.norm false false) ≤ 2 ∧ 1 < resultCount (.norm false false)
      ∧ (after (.norm false false) gb7Layer).status = 0x00010000#32
      ∧ (after (.norm false false) gb7Layer).r = #v[2, 2, 9, 9, 9, 9] := by decide +kernel

/-- ErrorWritesOnlyStatus: a state in which a check fails, with its error. -/
theorem witness_errorWritesOnlyStatus : firstFailing (checks .rsnn lutState) = some .dimTarget := by decide +kernel

/-- CommandsAreFunctionsOfTheirInputs: two states that differ inside the destination range and just outside the ranges read. -/
theorem witness_functionsOfInputs :
    let i := Instr.norm false false
    let s := gb7Layer
    let u : State := { s with mem := (s.mem.store 0x400 (List.replicate 16 7)).store 0x304 [7], r := #v[1, 1, 1, 1, 1, 1] }
    u.mem.size = s.mem.size ∧ (after i s).status = 0x00010000#32 ∧ exec i s = .next (after i s)
      ∧ (destination i s).has 0x400 = true ∧ u.mem.read 0x40F = 7 ∧ u.mem.read 0x304 = 7
      ∧ sources i s = [{ base := 0x100, len := 32 }, { base := 0x300, len := 4 }]
      ∧ ∀ g ∈ sources i s, ∀ x, g.has x = true → u.mem.read x = s.mem.read x := by
  have hs : sources (.norm false false) gb7Layer = [{ base := 0x100, len := 32 }, { base := 0x300, len := 4 }] := by
    decide +kernel
  refine ⟨rfl, by decide +kernel, rfl, by decide +kernel, by decide +kernel, by decide +kernel, hs, ?_⟩
  rw [hs]
  intro g hg x hx
  have hx : x < 0x304 := by
    simp only [List.mem_cons, List.not_mem_nil, or_false] at hg
    rcases hg with rfl | rfl <;> simp [Range.has] at hx <;> omega
  exact (read_store_outside (by simp [Range.has]; omega)).trans (read_store_outside (by simp [Range.has]; omega))

/-- The longest number that fits its bytes, and its first and last byte. -/
theorem witness_numbersAreBigEndian : (2 ^ 32 - 1 : Nat) < 256 ^ 4 ∧ 0 < 4 ∧ 3 < 4 := by decide

theorem witness_roundingIsHalfUp : (0 : Int) < 1 := by decide

/-- Every field of a descriptor in memory (CanonicalPixelByKind, R48), with a negative height and an opacity above 1. -/
theorem test_descriptor_fields :
    (small (Vector.replicate 7 0) [(0x100, desc 1 0x15 0xFE 2 0xFFFFFFFF 0x12345678 0x20000)] []).mem.layer 0x100
      = { kind := some .gb7, hasAlpha := true, alphaHidden := false, alphaRemoved := true, visible := false, deleted := true,
          blend := .screen, width := 2, height := -1, data := 0x12345678, opacity := 0x20000 }
      ∧ (gb7Layer.mem.layer 0x100).dataRange = { base := 0x300, len := 4 } := by decide +kernel

/-- The three kinds of layer of CanonicalPixelByKind. -/
theorem witness_canonicalPixelByKind :
    layerKind 0 = some .raster ∧ layerKind 1 = some .gb7 ∧ layerKind 2 = some .flat ∧ layerKind 3 = none := by decide

theorem witness_norm :
    let s := gb7Layer
    let l := s.mem.layer (u32 s.a[0])
    (descriptorRange s).valid s.mem = true ∧ l.kind ≠ none ∧ 0 < l.width ∧ 0 < l.height
      ∧ l.dataRange.valid s.mem = true ∧ (normDest s).valid s.mem = true
      ∧ (normDest s).meets (descriptorRange s) = false ∧ (normDest s).meets l.dataRange = false := by decide +kernel

theorem witness_gb7dec :
    let s := gb7FileState
    let w := (s.mem.read (u32 s.a[0] + 6)).toNat * 256 + (s.mem.read (u32 s.a[0] + 7)).toNat
    let h := (s.mem.read (u32 s.a[0] + 8)).toNat * 256 + (s.mem.read (u32 s.a[0] + 9)).toNat
    u32 s.a[0] + u32 s.a[1] ≤ s.mem.size ∧ s.mem.readBytes (u32 s.a[0]) 5 = [0x47, 0x42, 0x37, 0x1D, 1]
      ∧ 12 + w * h ≤ u32 s.a[1] ∧ (gb7decDest s).valid s.mem = true
      ∧ (gb7decDest s).meets (gb7File s) = false := by decide +kernel

theorem witness_gb7enc :
    let s := gb7Layer
    let l := s.mem.layer (u32 s.a[0])
    (descriptorRange s).valid s.mem = true ∧ l.kind ≠ none ∧ 0 < l.width ∧ l.width ≤ 65535 ∧ 0 < l.height
      ∧ l.height ≤ 65535 ∧ l.dataRange.valid s.mem = true ∧ (gb7encDest s).valid s.mem = true
      ∧ (gb7encDest s).meets (descriptorRange s) = false ∧ (gb7encDest s).meets l.dataRange = false := by decide +kernel

/-- The state in which GB7DEC decodes the file that GB7ENC wrote. -/
def gb7Again : State := { after (.gb7enc false) gb7Layer with a := #v[0x400, 16, 0x500, 0, 0, 0, 0] }

theorem witness_gb7RoundTrip :
    let s := gb7Layer
    let u := gb7Again
    let l := s.mem.layer (u32 s.a[0])
    l.kind = some .gb7 ∧ l.hasAlpha = true ∧ l.alphaHidden = false ∧ l.alphaRemoved = false
      ∧ (after (.gb7enc false) s).status = 0x00010000#32 ∧ u.a[0] = s.a[1] ∧ u32 u.a[1] = 12 + l.pixels
      ∧ Range.valid { base := u32 u.a[2], len := l.pixels } u.mem = true
      ∧ Range.meets { base := u32 u.a[2], len := l.pixels } (gb7encDest s) = false := by decide +kernel

theorem witness_gb7RoundTrip_step :
    exec (.gb7enc false) gb7Layer = .next (after (.gb7enc false) gb7Layer)
      ∧ gb7Again.mem = (after (.gb7enc false) gb7Layer).mem := ⟨rfl, rfl⟩

/-- LutPointsAreClampedAndOrdered: points out of order, in order, with equal x, and clamped at both ends (R154). -/
theorem witness_lutPoints :
    let inOrder := small #v[10, 20, 30, 40, 0x1000, 0, 0] [] []
    let sameX := small #v[7, 1, 7, 2, 0x1000, 0, 0] [] []
    let outside := small #v[-5, 300, 400, -1, 0x1000, 0, 0] [] []
    (max 0 (min (s32 lutState.a[2]) 255) < max 0 (min (s32 lutState.a[0]) 255)
        ∧ lutbuildPoints false lutState = { x1 := 100, y1 := 50, x2 := 200, y2 := 10 })
      ∧ (max 0 (min (s32 inOrder.a[0]) 255) ≤ max 0 (min (s32 inOrder.a[2]) 255)
        ∧ lutbuildPoints false inOrder = { x1 := 10, y1 := 20, x2 := 30, y2 := 40 })
      ∧ (max 0 (min (s32 sameX.a[0]) 255) = max 0 (min (s32 sameX.a[2]) 255)
        ∧ lutbuildPoints false sameX = { x1 := 7, y1 := 1, x2 := 7, y2 := 2 })
      ∧ lutbuildPoints false outside = { x1 := 0, y1 := 255, x2 := 255, y2 := 0 } := by decide +kernel

/-- LUTBUILD's destination, with an index on each segment and at the joints. -/
theorem witness_lutbuild :
    (lutbuildDest false lutState).valid lutState.mem = true
      ∧ (lutbuildPoints false lutState).x1 = 100 ∧ (lutbuildPoints false lutState).x2 = 200
      ∧ (after (.lutbuild false) lutState).status = 0x00010000#32 := by decide +kernel

theorem witness_identityLut :
    let s := small #v[0, 0, 127, 127, 0x1000, 0, 0] [] []
    s.a[0] = 0 ∧ s.a[1] = 0 ∧ s.a[2] = BitVec.ofNat 32 127 ∧ s.a[3] = BitVec.ofNat 32 127
      ∧ (lutbuildDest true s).valid s.mem = true := by decide +kernel

theorem witness_curve :
    let s := curveState
    0 < s32 s.a[1] ∧ Range.valid { base := u32 s.a[0], len := 4 * (s32 s.a[1]).toNat } s.mem = true
      ∧ (lutRange true s.a[3] 256).valid s.mem = true ∧ (lutRange false s.a[4] 256).valid s.mem = true
      ∧ (lutRange false s.a[5] 256).valid s.mem = true ∧ (lutRange false s.a[6] 256).valid s.mem = true
      ∧ (curveDest s).valid s.mem = true
      ∧ (curveDest s).meets { base := u32 s.a[0], len := 4 * (s32 s.a[1]).toNat } = false
      ∧ (curveDest s).meets (lutRange true s.a[3] 256) = false ∧ (curveDest s).meets (lutRange false s.a[4] 256) = false
      ∧ (curveDest s).meets (lutRange false s.a[5] 256) = false
      ∧ (curveDest s).meets (lutRange false s.a[6] 256) = false := by decide +kernel

theorem witness_curveg7 :
    let s := g7State
    Combine.or ≠ .reserved3 ∧ 0 < s32 s.a[1] ∧ Range.valid { base := u32 s.a[0], len := (s32 s.a[1]).toNat } s.mem = true
      ∧ (lutRange true s.a[3] 128).valid s.mem = true ∧ (curveg7Dest s).valid s.mem = true
      ∧ (curveg7Dest s).meets { base := u32 s.a[0], len := (s32 s.a[1]).toNat } = false
      ∧ (curveg7Dest s).meets (lutRange true s.a[3] 128) = false
      ∧ (after (.curveg7 false .preserve true .or) s).status = 0x00010000#32 := by decide +kernel

theorem witness_hist :
    let s := histState
    0 < s32 s.a[1] ∧ Range.valid { base := u32 s.a[0], len := 4 * (s32 s.a[1]).toNat } s.mem = true
      ∧ (histDest false s).valid s.mem = true
      ∧ (histDest false s).meets { base := u32 s.a[0], len := 4 * (s32 s.a[1]).toNat } = false
      ∧ (after (.hist false) s).status = 0x00010000#32 := by decide +kernel

theorem witness_histg7 :
    let s := histg7State
    0 < s32 s.a[1] ∧ Range.valid { base := u32 s.a[0], len := (s32 s.a[1]).toNat } s.mem = true
      ∧ (histg7Dest s).valid s.mem = true
      ∧ (histg7Dest s).meets { base := u32 s.a[0], len := (s32 s.a[1]).toNat } = false
      ∧ (after .histg7 s).status = 0x00010000#32 := by decide +kernel

/-- ConvolveChannelInIntegers with a divisor of either sign. -/
theorem witness_convolveChannel :
    (selectKernel convState .custom).div = -1 ∧ (selectKernel convState .gaussian).div = 16 := by decide +kernel

theorem witness_convolution :
    let s := convState
    KernelSel.sharpen ≠ .reserved7 ∧ 0 < s32 s.a[1] ∧ 0 < s32 s.a[2] ∧ (convSource s).valid s.mem = true
      ∧ (convDest s).valid s.mem = true ∧ (convDest s).meets (convSource s) = false
      ∧ (after (.convrgb .identity) s).status = 0x00010000#32
      ∧ (after (.conva .identity) s).status = 0x00010000#32 := by decide +kernel

theorem witness_resample :
    let s := scaleState
    0 < s32 s.a[4] ∧ 0 < s32 s.a[5] ∧ 0 < s32 s.a[1] ∧ 0 < s32 s.a[2] ∧ (resampleRange s).valid s.mem = true
      ∧ (resampleDest s).valid s.mem = true ∧ (resampleDest s).meets (resampleRange s) = false
      ∧ (after .rsbl s).status = 0x00010000#32 := by decide +kernel

theorem witness_rsnnSameSize :
    let s := small #v[0x100, 2, 1, 0x200, 2, 1, 0] [(0x100, [1, 2, 3, 4, 5, 6, 7, 8])] []
    (after .rsnn s).status = 0x00010000#32 ∧ s.a[4] = s.a[1] ∧ s.a[5] = s.a[2] := by decide +kernel

/-- RsblStaysWithinSourceValues for the red channel of the two source pixels. -/
theorem witness_rsblWithin :
    ∀ i < (s32 scaleState.a[1]).toNat * (s32 scaleState.a[2]).toNat,
      0 ≤ (scaleState.mem.read (u32 scaleState.a[0] + 4 * i + 0)).toNat
        ∧ (scaleState.mem.read (u32 scaleState.a[0] + 4 * i + 0)).toNat ≤ 100 := by decide +kernel

theorem witness_render :
    let s := stack 0x8000
    (tableRange s).valid s.mem = true ∧ (renderDest s).valid s.mem = true ∧ (renderDest s).meets (tableRange s) = false
      ∧ (drawnLayers s).length = 2 ∧ canvasW s = 2 ∧ canvasH s = 2 := by decide +kernel

/-- A stack of an invisible layer and one of no variant. -/
def badStack : State :=
  small #v[0x100, 2, 0x10000, 0x10000, 0x800, 0, 0]
    [(0x100, desc 2 0 0 2 1 0xFF00 0x10000 ++ desc 5 8 0 2 2 0 0x10000)] []

theorem witness_renderSkips :
    let s := badStack
    (tableRange s).valid s.mem = true ∧ (renderDest s).valid s.mem = true ∧ (renderDest s).meets (tableRange s) = false
      ∧ drawnLayers s = [] ∧ canvasW s = 2
      ∧ ∀ l ∈ renderLayers s, l.deleted = true ∨ l.visible = false ∨ l.kind = none ∨ l.width ≤ 0 ∨ l.height ≤ 0
        ∨ l.dataRange.valid s.mem = false ∨ l.dataRange.meets (renderDest s) = true := by decide +kernel

/-- The pixels of a drawn layer (RenderCompositesDrawnLayers): the layer of R204's example drawn twice as wide, with both
interpolations. -/
theorem witness_layerPixel :
    let s := small (Vector.replicate 7 0)
      [(0x100, desc 0 8 0 2 1 0x400 0x10000), (0x400, [0x00, 0x00, 0x00, 0xFF, 0x64, 0xC8, 0x32, 0x00])] []
    let l := s.mem.layer 0x100
    0 < 4 ∧ 0 < 1 ∧ layerPixel s.mem false l 4 1 1 0 = { r := 0x00, g := 0x00, b := 0x00, a := 0xFF }
      ∧ layerPixel s.mem true l 4 1 1 0 = { r := 0x19, g := 0x32, b := 0x0D, a := 0xBF }
      ∧ layerPixel s.mem true l 4 1 3 0 = { r := 0x4B, g := 0x96, b := 0x26, a := 0x40 } := by decide +kernel

/-- RenderGeometryInIntegers: a stack with a first layer that is not deleted, and one whose only layer is deleted. -/
theorem witness_renderGeometry :
    ((renderLayers (stack 0x8000)).find? fun l => !l.deleted).isSome = true ∧ (drawnLayers (stack 0x8000)).length = 2
      ∧ (let s := small #v[0x100, 1, 0x10000, 0x10000, 0x800, 0, 0] [(0x100, desc 2 16 0 2 1 0xFF00 0x10000)] []
         ∀ l ∈ renderLayers s, l.deleted = true) := by decide +kernel

theorem witness_renderOfNoLayers : (small #v[0x100, 0, 0, 0, 0x800, 0, 0] [] []).a[1] = 0 := by decide

/-- One opaque Raster layer (vector RN24 without its force flag, all alphas 255). -/
def singleLayer : State :=
  small #v[0x100, 1, 0x10000, 0x10000, 0x800, 0, 0]
    [(0x400, [0xC8, 0x64, 0x32, 0xFF, 0x01, 0x02, 0x03, 0xFF]), (0x100, desc 0 9 0 2 1 0x400 0x10000)] []

theorem witness_renderSingle :
    let s := singleLayer
    let l := s.mem.layer (u32 s.a[0])
    let dest : Range := { base := u32 s.a[4], len := 4 * (l.width * l.height).toNat }
    s.a[1] = 1 ∧ s.a[2] = 0x00010000#32 ∧ s.a[3] = 0x00010000#32 ∧ l.deleted = false ∧ l.visible = true ∧ l.kind ≠ none
      ∧ 0 < l.width ∧ 0 < l.height ∧ l.blend = .normal ∧ 65536 ≤ u32 l.opacity
      ∧ (∀ i < (l.width * l.height).toNat, (normPixel s.mem l false i).a = 255)
      ∧ (descriptorRange s).valid s.mem = true ∧ l.dataRange.valid s.mem = true ∧ dest.valid s.mem = true
      ∧ dest.meets (descriptorRange s) = false ∧ l.dataRange.meets dest = false := by decide +kernel

/-- Each clause of CompositeCorners has its operands. -/
theorem witness_compositeCorners :
    (0 : Rat) ≤ 1 ∧ (1 : Rat) ≤ 1 ∧ (1 : Rat) ≠ 0 ∧ Pixel.clear.a = 0
      ∧ ({ r := 1, g := 2, b := 3, a := 255 } : Pixel).a = 255
      ∧ ({ r := 1, g := 2, b := 3, a := 255 } : Pixel).a ≠ 0 := by decide +kernel

/-- CompositeByFormula with `ao = 0` (nothing over nothing) and with `ao ≠ 0`, an opacity inside `[0, 1]` in both. -/
theorem witness_compositeByFormula :
    let op : Rat := 1 / 2
    0 ≤ op ∧ op ≤ 1
      ∧ (Pixel.clear.a.toNat : Rat) / 255 * op + (Pixel.clear.a.toNat : Rat) / 255 * (1 - (Pixel.clear.a.toNat : Rat) / 255 * op) = 0
      ∧ ((255#8 : Byte).toNat : Rat) / 255 * op + (Pixel.clear.a.toNat : Rat) / 255 * (1 - ((255#8 : Byte).toNat : Rat) / 255 * op)
        ≠ 0 := by decide +kernel

end Sys2Proof.Tests
end

section
/-! The statements about the form of a state and about rounding (spec/00_scope.md): the reset state is well formed, every step
keeps a state so, and `rnd` rounds half up. -/

namespace Sys2Proof.Machine

/-! ## The parts of a well-formed state -/

theorem state_wf_iff (s : State) : s.wf = true ↔ s.mem.wf = true ∧ s.status ∈ legalStatusWords := by
  simp [State.wf]

/-- The form of a state is a fact about its memory and STATUS alone. -/
theorem state_wf_congr {s t : State} (hmem : t.mem = s.mem) (hstatus : t.status = s.status) (h : s.wf = true) :
    t.wf = true := by
  rw [state_wf_iff] at h ⊢
  rwa [hmem, hstatus]

/-- Ending a command with a legal STATUS word asks only for a canonical memory. -/
theorem wf_ended {s : State} {w : Word} (hmem : s.mem.wf = true) (hw : w ∈ legalStatusWords) : (s.ended w).wf = true :=
  (state_wf_iff _).2 ⟨hmem, hw⟩

theorem wf_replied {s : State} (y : HostReply) (h : s.wf = true) : (replied y s).wf = true :=
  state_wf_congr rfl rfl h

/-! ## STATUS words (R36, R37, R246) -/

/-- STATUS after reset, before any command has ended (R58). -/
theorem zeroStatus_legal : (0 : Word) ∈ legalStatusWords := by decide

theorem doneStatus_legal : doneStatus ∈ legalStatusWords := by decide

/-- Every row of R246 gives one of the listed words. -/
theorem statusWord_legal (e : CoreError) : e.statusWord ∈ legalStatusWords := by
  cases e with
  | illegalCommand c => cases c <;> decide
  | _ => decide

/-! ## Commands -/

theorem wf_raised {s : State} (e : CoreError) (h : s.wf = true) : (raised e s).wf = true :=
  wf_ended ((state_wf_iff s).1 h).1 (statusWord_legal e)

/-- Every command checks that its destination is a valid range (R67). -/
theorem destination_check_mem (i : Instr) (s : State) :
    ((destination i s).valid s.mem, CoreError.boundsDestination) ∈ checks i s := by
  cases i with
  | norm ao fo => simp [checks, destination, normChecks]
  | gb7dec => simp [checks, destination, gb7decChecks]
  | gb7enc fo => simp [checks, destination, gb7encChecks]
  | lutbuild d7 => simp [checks, destination, lutbuildChecks]
  | curve lr lg lb la => simp [checks, destination, curveChecks]
  | curveg7 yl am inv cmb => simp [checks, destination, curveg7Checks]
  | hist ao => simp [checks, destination, histChecks]
  | histg7 => simp [checks, destination, histg7Checks]
  | convrgb ksel | conva ksel => simp [checks, destination, convChecks]
  | rsnn | rsbl => simp [checks, destination, resampleChecks]
  | render bl => simp [checks, destination, renderChecks]

/-- A command all of whose checks pass writes inside the memory (R67). -/
theorem destination_valid {i : Instr} {s : State} (h : firstFailing (checks i s) = none) :
    (destination i s).valid s.mem = true :=
  firstFailing_eq_none.1 h _ (destination_check_mem i s)

/-- The memory after a command's output is stored is canonical, because the output fills a valid destination. -/
theorem wf_store_output {i : Instr} {s : State} (hmem : s.mem.wf = true) (h : firstFailing (checks i s) = none) :
    (s.mem.store (destination i s).base (output i s)).wf = true := by
  apply wf_store hmem
  rw [length_output]
  exact destination_valid h

theorem wf_exec {i : Instr} {s t : State} (h : s.wf = true) (ht : exec i s = .next t) : t.wf = true := by
  obtain ⟨e, -, rfl⟩ | ⟨hpass, rfl⟩ := exec_cases ht
  · exact wf_raised e h
  · exact wf_ended (wf_store_output ((state_wf_iff s).1 h).1 hpass) doneStatus_legal

/-- A write to CMD either runs a command or raises IllegalCommand (R35, R89). -/
theorem command_cases {w : Word} {s t : State} (h : command w s = .next t) :
    (∃ i, decode w = .ok i ∧ exec i s = .next t) ∨ ∃ c, decode w = .error c ∧ t = raised (.illegalCommand c) s := by
  unfold command at h
  split at h
  next i hi => exact .inl ⟨i, hi, h⟩
  next c hc =>
    injection h with h
    exact .inr ⟨c, hc, h.symm⟩

theorem wf_command {w : Word} {s t : State} (h : s.wf = true) (ht : command w s = .next t) : t.wf = true := by
  obtain ⟨i, -, hi⟩ | ⟨c, -, rfl⟩ := command_cases ht
  · exact wf_exec h hi
  · exact wf_raised _ h

/-! ## Host events (R27, R270) -/

/-- No register write but one to CMD touches memory (R26). -/
@[simp] theorem writeRegister_mem (n : Nat) (v : Word) (s : State) : (writeRegister n v s).mem = s.mem := by
  unfold writeRegister
  split_ifs <;> rfl

/-- STATUS ignores a HostRegWrite (R36). -/
@[simp] theorem writeRegister_status (n : Nat) (v : Word) (s : State) : (writeRegister n v s).status = s.status := by
  unfold writeRegister
  split_ifs <;> rfl

theorem wf_hostRegWrite {n : Nat} {v : Word} {s t : State} (h : s.wf = true) (ht : hostRegWrite n v s = .next t) :
    t.wf = true := by
  unfold hostRegWrite at ht
  split at ht
  next => exact wf_command (wf_replied .done h) ht
  next =>
    injection ht with ht
    subst ht
    exact state_wf_congr (by simp) (by simp) h

theorem wf_hostRegRead {n : Nat} {s t : State} (h : s.wf = true) (ht : hostRegRead n s = .next t) : t.wf = true := by
  injection ht with ht
  subst ht
  exact wf_replied _ h

/-- A HostMemWrite that is not refused stores its bytes in a valid range (R27, R263). -/
theorem hostMemWrite_next {addr : Word} {bs : List Byte} {s t : State} (h : hostMemWrite addr bs s = .next t) :
    Range.valid { base := u32 addr, len := bs.length } s.mem = true
      ∧ t = { s with mem := s.mem.store (u32 addr) bs, reply := .done } := by
  unfold hostMemWrite at h
  split at h
  next hv =>
    injection h with h
    exact ⟨hv, h.symm⟩
  next => cases h

/-- A HostMemRead that is not refused changes nothing but the reply (R27, R263). -/
theorem hostMemRead_next {addr : Word} {len : Nat} {s t : State} (h : hostMemRead addr len s = .next t) :
    Range.valid { base := u32 addr, len := len } s.mem = true
      ∧ t = replied (.bytes (s.mem.readBytes (u32 addr) len)) s := by
  unfold hostMemRead at h
  split at h
  next hv =>
    injection h with h
    exact ⟨hv, h.symm⟩
  next => cases h

theorem wf_hostMemWrite {addr : Word} {bs : List Byte} {s t : State} (h : s.wf = true)
    (ht : hostMemWrite addr bs s = .next t) : t.wf = true := by
  obtain ⟨hvalid, rfl⟩ := hostMemWrite_next ht
  obtain ⟨hmem, hstatus⟩ := (state_wf_iff s).1 h
  exact (state_wf_iff _).2 ⟨wf_store hmem hvalid, hstatus⟩

theorem wf_hostMemRead {addr : Word} {len : Nat} {s t : State} (h : s.wf = true)
    (ht : hostMemRead addr len s = .next t) : t.wf = true := by
  obtain ⟨-, rfl⟩ := hostMemRead_next ht
  exact wf_replied _ h

/-- A reset keeps MEM_SIZE, so the fresh memory is canonical, and STATUS reads 0 (R58, R270). -/
theorem wf_resetState {s : State} (h : s.wf = true) : (resetState s).wf = true := by
  obtain ⟨hpos, hle, -, -⟩ := (memory_wf_iff s.mem).1 ((state_wf_iff s).1 h).1
  exact (state_wf_iff _).2 ⟨wf_fresh hpos hle, zeroStatus_legal⟩

theorem wf_hostEvent {e : HostEvent} {s t : State} (h : s.wf = true) (ht : hostEvent e s = .next t) : t.wf = true := by
  cases e with
  | regWrite n v => exact wf_hostRegWrite h ht
  | regRead n => exact wf_hostRegRead h ht
  | memWrite addr bs => exact wf_hostMemWrite h ht
  | memRead addr len => exact wf_hostMemRead h ht
  | reset =>
    injection ht with ht
    subst ht
    exact wf_resetState h

/-- A step is idle or performs the oldest pending host event (R27, R262). -/
theorem step_cases {s t : State} (h : step s = .next t) :
    (s.pending = [] ∧ t = s)
      ∨ ∃ e rest, s.pending = e :: rest ∧ hostEvent e { s with pending := rest } = .next t := by
  unfold step nextEvent at h
  split at h
  next hp =>
    injection h with h
    exact .inl ⟨hp, h.symm⟩
  next e rest hp => exact .inr ⟨e, rest, hp, h⟩

/-! ## Rounding -/

/-- `rnd` is the library's rounding of rationals, which is half up (R17). -/
theorem rnd_eq_round (q : Rat) : rnd q = round q := by
  rw [rnd_eq_floor, round_eq]

/-- No integer is nearer to `q` than `rnd q` (R17). -/
theorem abs_sub_rnd_le (q : Rat) (n : Int) : |q - rnd q| ≤ |q - n| := by
  rw [rnd_eq_round]
  exact round_le q n

/-- A tie goes to the larger integer (R17). -/
theorem rnd_add_half (n : Int) : rnd ((n : Rat) + 1 / 2) = n + 1 := by
  rw [rnd_eq_iff]
  push_cast
  constructor <;> linarith

/-! ## The statements -/

/-- Settles O15: each kind of host event keeps the form; a command that ends with an error writes only a legal STATUS word, and
one that runs stores its output in a destination it has checked. -/
theorem stepKeepsWellFormed : Obligations.StepKeepsWellFormed := by
  intro s t h ht
  obtain ⟨-, rfl⟩ | ⟨e, rest, -, he⟩ := step_cases ht
  · exact h
  · exact wf_hostEvent (s := { s with pending := rest }) (state_wf_congr rfl rfl h) he

/-- Settles O24, from the library's `round` and the integer form of `rnd` on a quotient. -/
theorem roundingIsHalfUp : Obligations.RoundingIsHalfUp :=
  ⟨fun q => ⟨rnd_eq_floor q, abs_sub_rnd_le q⟩, rnd_add_half, rnd_div⟩

/-- Settles O14: nothing is written after reset, MEM_SIZE is legal and STATUS is 0. -/
theorem resetStateIsWellFormed : Obligations.ResetStateIsWellFormed :=
  (state_wf_iff _).2 ⟨wf_reset, zeroStatus_legal⟩

end Sys2Proof.Machine
end

section
/-! The host's operations and the reset event (spec/10_state.md R26, R27, R35, spec/70 R270): how a step takes its event, what
each register number reads and writes, which memory operations have a step, and that a command looks at neither STATUS nor the
result registers. -/

namespace Sys2Proof.Machine

/-! ## Taking an event -/

/-- A step with an event pending performs that event on the state with it taken (R27, R70). -/
theorem step_of_pending {s : State} {e : HostEvent} {rest : List HostEvent} (h : s.pending = e :: rest) :
    step s = hostEvent e { s with pending := rest } := by
  simp [step, nextEvent, h]

/-- A step with nothing pending is idle (R262). -/
theorem step_of_idle {s : State} (h : s.pending = []) : step s = .next s := by
  simp [step, nextEvent, h]

/-! ## Reading a register (R26) -/

theorem readRegister_operand {n : Nat} (h : n < 7) (s : State) : readRegister n s = s.a[n] := by
  simp [readRegister, h]

theorem readRegister_kernel {n : Nat} (h : 8 ≤ n ∧ n < 17) (s : State) : readRegister n s = s.k[n - 8] := by
  have h7 : ¬ n < 7 := by omega
  simp [readRegister, h7, h]

theorem readRegister_divisor {n : Nat} (h : n = 17) (s : State) : readRegister n s = s.kdiv := by
  subst h
  rfl

theorem readRegister_bias {n : Nat} (h : n = 18) (s : State) : readRegister n s = s.kbias := by
  subst h
  rfl

theorem readRegister_result {n : Nat} (h : 20 ≤ n ∧ n < 26) (s : State) : readRegister n s = s.r[n - 20] := by
  have h7 : ¬ n < 7 := by omega
  have h17 : ¬ n < 17 := by omega
  have hdiv : n ≠ 17 := by omega
  have hbias : n ≠ 18 := by omega
  simp [readRegister, h7, h17, hdiv, hbias, h]

theorem readRegister_status {n : Nat} (h : n = 29) (s : State) : readRegister n s = s.status := by
  subst h
  rfl

/-- CMD and the numbers without a register. -/
theorem readRegister_unassigned {n : Nat} (h : n = 7 ∨ n = 19 ∨ n = 26 ∨ n = 27 ∨ n = 28 ∨ 30 ≤ n) (s : State) :
    readRegister n s = 0#32 := by
  rw [readRegister, dif_neg (by omega), dif_neg (by omega), if_neg (by omega), if_neg (by omega), dif_neg (by omega),
    if_neg (by omega)]
  rfl

/-- What a register reads is a fact about the registers alone. -/
theorem readRegister_congr {s t : State} (ha : t.a = s.a) (hk : t.k = s.k) (hdiv : t.kdiv = s.kdiv)
    (hbias : t.kbias = s.kbias) (hr : t.r = s.r) (hstatus : t.status = s.status) (n : Nat) :
    readRegister n t = readRegister n s := by
  simp only [readRegister, ha, hk, hdiv, hbias, hr, hstatus]

/-! ## Reset -/

theorem reset_a : State.reset.a = Vector.replicate 7 0 := rfl

theorem reset_k : State.reset.k = Vector.replicate 9 0 := rfl

theorem reset_r : State.reset.r = Vector.replicate 6 0 := rfl

/-- Every register reads 0 after reset (R58). -/
theorem readRegister_reset (n : Nat) : readRegister n State.reset = 0#32 := by
  simp only [readRegister, reset_a, reset_k, reset_r, Vector.getElem_replicate]
  split_ifs <;> rfl

/-- A reset event leaves the registers of the reset state (R270). -/
theorem readRegister_resetState (n : Nat) (s : State) : readRegister n (resetState s) = 0#32 :=
  (readRegister_congr rfl rfl rfl rfl rfl rfl n).trans (readRegister_reset n)

/-- A memory in which nothing is written reads as its draw of free bytes (R59). -/
@[simp] theorem read_fresh (size draw x : Nat) : (Memory.fresh size draw).read x = Config.resetByte draw x := rfl

/-! ## Writing a register (R26) -/

/-- The numbers of the operand and kernel registers, those the host writes (R28, R32 to R34). -/
def hostWritable (n : Nat) : Prop := n ≤ 6 ∨ (8 ≤ n ∧ n ≤ 18)

theorem writeRegister_operand {n : Nat} (h : n < 7) (v : Word) (s : State) :
    writeRegister n v s = { s with a := s.a.set n v } := by
  simp [writeRegister, h]

theorem writeRegister_kernel {n : Nat} (h : 8 ≤ n ∧ n < 17) (v : Word) (s : State) :
    writeRegister n v s = { s with k := s.k.set (n - 8) v } := by
  have h7 : ¬ n < 7 := by omega
  simp [writeRegister, h7, h]

@[simp] theorem writeRegister_divisor (v : Word) (s : State) : writeRegister 17 v s = { s with kdiv := v } := rfl

@[simp] theorem writeRegister_bias (v : Word) (s : State) : writeRegister 18 v s = { s with kbias := v } := rfl

/-- R0 to R5, STATUS and the unassigned numbers ignore a write (R30, R36). -/
theorem writeRegister_ignored {n : Nat} (h : ¬ hostWritable n) (v : Word) (s : State) : writeRegister n v s = s := by
  unfold hostWritable at h
  rw [writeRegister, dif_neg (by omega), dif_neg (by omega), if_neg (by omega), if_neg (by omega)]

/-- The registers a host can write, by their place in the state. -/
theorem hostWritable_cases {n : Nat} (h : hostWritable n) : n < 7 ∨ (8 ≤ n ∧ n < 17) ∨ n = 17 ∨ n = 18 := by
  unfold hostWritable at h
  omega

theorem readRegister_writeRegister_same {n : Nat} (h : hostWritable n) (v : Word) (s : State) :
    readRegister n (writeRegister n v s) = v := by
  obtain h | h | rfl | rfl := hostWritable_cases h
  · simp [writeRegister_operand h, readRegister_operand h]
  · simp [writeRegister_kernel h, readRegister_kernel h]
  · rfl
  · rfl

theorem readRegister_writeRegister_other {m n : Nat} (h : m ≠ n) (v : Word) (s : State) :
    readRegister m (writeRegister n v s) = readRegister m s := by
  by_cases hw : hostWritable n
  · obtain hn | hn | rfl | rfl := hostWritable_cases hw
    · rw [writeRegister_operand hn]
      by_cases hm : m < 7
      · rw [readRegister_operand hm, readRegister_operand hm]
        exact Vector.getElem_set_ne hn hm h.symm
      · simp only [readRegister, dif_neg hm]
    · rw [writeRegister_kernel hn]
      by_cases hm : 8 ≤ m ∧ m < 17
      · rw [readRegister_kernel hm, readRegister_kernel hm]
        exact Vector.getElem_set_ne (by omega) (by omega) (by omega)
      · simp only [readRegister, dif_neg hm]
    · simp only [writeRegister_divisor, readRegister, if_neg h]
    · simp only [writeRegister_bias, readRegister, if_neg h]
  · rw [writeRegister_ignored hw]

/-- A register write changes the register it names, where the host may write it, and no other. -/
theorem readRegister_writeRegister (m n : Nat) (v : Word) (s : State) :
    readRegister m (writeRegister n v s) = if m = n ∧ (n ≤ 6 ∨ (8 ≤ n ∧ n ≤ 18)) then v else readRegister m s := by
  split_ifs with h
  · obtain ⟨rfl, hw⟩ := h
    exact readRegister_writeRegister_same hw v s
  · by_cases hmn : m = n
    · subst hmn
      rw [writeRegister_ignored fun hw => h ⟨rfl, hw⟩]
    · exact readRegister_writeRegister_other hmn v s

@[simp] theorem writeRegister_pending (n : Nat) (v : Word) (s : State) : (writeRegister n v s).pending = s.pending := by
  unfold writeRegister
  split_ifs <;> rfl

@[simp] theorem writeRegister_reply (n : Nat) (v : Word) (s : State) : (writeRegister n v s).reply = s.reply := by
  unfold writeRegister
  split_ifs <;> rfl

/-- A write to a register other than CMD (R26). -/
theorem hostRegWrite_register {n : Nat} (h : n ≠ 28) (v : Word) (s : State) :
    hostRegWrite n v s = .next (writeRegister n v (replied .done s)) :=
  if_neg h

/-- A write to CMD runs the command (R35). -/
theorem hostRegWrite_cmd (w : Word) (s : State) : hostRegWrite 28 w s = command w (replied .done s) := rfl

theorem command_of_decode {w : Word} {i : Instr} (h : decode w = .ok i) (s : State) : command w s = exec i s := by
  simp [command, h]

/-- A write to CMD ends in a next state, whatever the word (R258, R279). -/
theorem command_next (w : Word) (s : State) : ∃ t, command w s = .next t := by
  unfold command
  split
  next i _ => exact exec_next i s
  next c _ => exact ⟨_, rfl⟩

theorem hostRegWrite_next (n : Nat) (v : Word) (s : State) : ∃ t, hostRegWrite n v s = .next t := by
  by_cases h : n = 28
  · subst h
    exact command_next v _
  · exact ⟨_, hostRegWrite_register h v s⟩

/-! ## Memory operations (R27, R66, R263) -/

theorem valid_eq_false_iff (g : Range) (m : Memory) : g.valid m = false ↔ g.len ≠ 0 ∧ m.size < g.base + g.len := by
  rw [Bool.eq_false_iff, ne_eq, valid_iff]
  omega

theorem hostMemWrite_of_valid {addr : Word} {bs : List Byte} {s : State}
    (h : Range.valid { base := u32 addr, len := bs.length } s.mem = true) :
    hostMemWrite addr bs s = .next { s with mem := s.mem.store (u32 addr) bs, reply := .done } :=
  if_pos h

theorem hostMemRead_of_valid {addr : Word} {len : Nat} {s : State}
    (h : Range.valid { base := u32 addr, len := len } s.mem = true) :
    hostMemRead addr len s = .next (replied (.bytes (s.mem.readBytes (u32 addr) len)) s) :=
  if_pos h

theorem hostMemWrite_of_invalid {addr : Word} {bs : List Byte} {s : State}
    (h : Range.valid { base := u32 addr, len := bs.length } s.mem = false) :
    hostMemWrite addr bs s = .refused .hostMemoryRange := by
  simp [hostMemWrite, h]

theorem hostMemRead_of_invalid {addr : Word} {len : Nat} {s : State}
    (h : Range.valid { base := u32 addr, len := len } s.mem = false) :
    hostMemRead addr len s = .refused .hostMemoryRange := by
  simp [hostMemRead, h]

theorem step_memWrite_of_valid {s : State} {x : Word} {bs : List Byte} {rest : List HostEvent}
    (hp : s.pending = .memWrite x bs :: rest) (hv : Range.valid { base := u32 x, len := bs.length } s.mem = true) :
    step s = .next { s with mem := s.mem.store (u32 x) bs, pending := rest, reply := .done } := by
  rw [step_of_pending hp]
  exact hostMemWrite_of_valid hv

theorem step_memRead_of_valid {s : State} {x : Word} {len : Nat} {rest : List HostEvent} {bs : List Byte}
    (hp : s.pending = .memRead x len :: rest) (hv : Range.valid { base := u32 x, len := len } s.mem = true)
    (hbs : s.mem.readBytes (u32 x) len = bs) : step s = .next { s with pending := rest, reply := .bytes bs } := by
  subst hbs
  rw [step_of_pending hp]
  exact hostMemRead_of_valid hv

/-- A host event answers, or it is a memory operation outside the memory and is refused as such (R27, R263). -/
theorem hostEvent_next_or_refused (e : HostEvent) (s : State) :
    (∃ t, hostEvent e s = .next t)
      ∨ (hostEvent e s = .refused .hostMemoryRange
          ∧ ∃ (x : Word) (n : Nat), s.mem.size < u32 x + n
            ∧ (e = .memRead x n ∨ ∃ bs : List Byte, bs.length = n ∧ e = .memWrite x bs)) := by
  cases e with
  | regWrite n v => exact .inl (hostRegWrite_next n v s)
  | regRead n => exact .inl ⟨_, rfl⟩
  | reset => exact .inl ⟨_, rfl⟩
  | memWrite x bs =>
    by_cases hv : Range.valid { base := u32 x, len := bs.length } s.mem = true
    · exact .inl ⟨_, hostMemWrite_of_valid hv⟩
    · rw [Bool.not_eq_true] at hv
      exact .inr ⟨hostMemWrite_of_invalid hv, x, bs.length, ((valid_eq_false_iff _ _).1 hv).2, .inr ⟨bs, rfl, rfl⟩⟩
  | memRead x n =>
    by_cases hv : Range.valid { base := u32 x, len := n } s.mem = true
    · exact .inl ⟨_, hostMemRead_of_valid hv⟩
    · rw [Bool.not_eq_true] at hv
      exact .inr ⟨hostMemRead_of_invalid hv, x, n, ((valid_eq_false_iff _ _).1 hv).2, .inl rfl⟩

/-! ## STATUS and the result registers (R38) -/

/-- No error leaves the STATUS word of a success (R245, R247). -/
theorem statusWord_ne_done (e : CoreError) : e.statusWord ≠ 0x00010000#32 := by
  cases e with
  | illegalCommand c => cases c <;> decide
  | _ => decide

theorem checks_status_results (i : Instr) (s : State) (w : Word) (r : Vector Word 6) :
    checks i { s with status := w, r := r } = checks i s := by
  cases i <;> rfl

theorem destination_status_results (i : Instr) (s : State) (w : Word) (r : Vector Word 6) :
    destination i { s with status := w, r := r } = destination i s := by
  cases i <;> rfl

theorem output_status_results (i : Instr) (s : State) (w : Word) (r : Vector Word 6) :
    output i { s with status := w, r := r } = output i s := by
  cases i <;> rfl

theorem setResults2_written (r r' : Vector Word 6) (r0 r1 : Word) {n : Nat} (h : n < 2) :
    (setResults2 r r0 r1)[n] = (setResults2 r' r0 r1)[n] := by
  interval_cases n <;> rfl

theorem setResults3_written (r r' : Vector Word 6) (r0 r1 r2 : Word) {n : Nat} (h : n < 3) :
    (setResults3 r r0 r1 r2)[n] = (setResults3 r' r0 r1 r2)[n] := by
  interval_cases n <;> rfl

/-- The results a command writes do not depend on the results that stood there (R31, R38). -/
theorem results_status_results (i : Instr) (s : State) (w : Word) (r : Vector Word 6) {n : Nat} (h : n < 6)
    (hn : n < resultCount i) : (results i { s with status := w, r := r })[n] = (results i s)[n] := by
  cases i with
  | norm ao fo | gb7enc fo => exact setResults2_written _ _ _ _ hn
  | gb7dec => exact setResults3_written _ _ _ _ _ hn
  | render bl => rfl
  | _ => exact absurd hn (Nat.not_lt_zero n)

/-! ## The statements -/

/-- Settles O7: the event is taken and its reply set, and then only the register written reads otherwise. -/
theorem registerWriteAccess : Obligations.RegisterWriteAccess := by
  intro s n v rest hp hn
  refine ⟨writeRegister n v (replied .done { s with pending := rest }), ?_, by simp, by simp, by simp, fun m => ?_⟩
  · rw [step_of_pending hp]
    exact hostRegWrite_register hn v _
  · rw [readRegister_writeRegister]
    rfl

/-- Settles O9, by what a read gives after a store. -/
theorem hostMemoryWriteThenRead : Obligations.HostMemoryWriteThenRead := by
  intro s x bs rest hp hrange
  have hvalid : Range.valid { base := u32 x, len := bs.length } s.mem = true := (valid_iff _ _).2 hrange
  exact ⟨_, step_memWrite_of_valid hp hvalid, rfl, step_memRead_of_valid rfl hvalid (readBytes_store _ _ _),
    fun y hy => read_store_outside hy, rfl, fun m => rfl⟩

/-- Settles O12: idle steps and all other host events answer. -/
theorem stepStopsOnlyOutsideMemory : Obligations.StepStopsOnlyOutsideMemory := by
  intro s
  cases hp : s.pending with
  | nil => exact .inl ⟨s, step_of_idle hp⟩
  | cons e rest =>
    rw [step_of_pending hp]
    obtain hnext | ⟨hrefused, x, n, hsize, he⟩ := hostEvent_next_or_refused e { s with pending := rest }
    · exact .inl hnext
    · refine .inr ⟨hrefused, x, n, rest, hsize, ?_⟩
      obtain rfl | ⟨bs, hlen, rfl⟩ := he
      · exact .inl rfl
      · exact .inr ⟨bs, hlen, rfl⟩

/-- Settles O19: checks, destination and output are the same, and so are the results a command writes. -/
theorem commandsIgnoreStatusAndResults : Obligations.CommandsIgnoreStatusAndResults := by
  intro i s t w r ht
  have hchecks := checks_status_results i s w r
  obtain ⟨e, hfail, rfl⟩ | ⟨hpass, rfl⟩ := exec_cases ht
  · exact ⟨_, exec_of_failing (hchecks ▸ hfail), rfl, rfl, fun n _ _ hdone => absurd hdone (statusWord_ne_done e)⟩
  · refine ⟨_, exec_of_checks (hchecks ▸ firstFailing_eq_none.1 hpass), rfl, ?_, fun n h hn _ => ?_⟩
    · simp [destination_status_results, output_status_results]
    · exact results_status_results i s w r h hn

/-- Settles O6: the CMD write decodes its word and runs the command. -/
theorem stepRunsDecodedCommand : Obligations.StepRunsDecodedCommand := by
  intro s w rest i hp hi
  rw [step_of_pending hp, hostEvent, hostRegWrite_cmd, command_of_decode hi]
  rfl

/-- Settles O8, one clause per kind of register. -/
theorem registerReadReturns : Obligations.RegisterReadReturns := by
  intro s n rest hp
  exact ⟨readRegister n s, step_of_pending hp, fun h => readRegister_operand h s, fun h => readRegister_kernel h s,
    fun h => readRegister_divisor h s, fun h => readRegister_bias h s, fun h => readRegister_result h s,
    fun h => readRegister_status h s, fun h => readRegister_unassigned h s⟩

/-- Settles O10: a range that is not empty and ends outside the memory is not valid. -/
theorem hostMemoryOutsideHasNoStep : Obligations.HostMemoryOutsideHasNoStep := by
  intro s x bs len rest
  constructor
  · intro hp hlen hsize
    rw [step_of_pending hp]
    exact hostMemWrite_of_invalid ((valid_eq_false_iff _ _).2 ⟨hlen, hsize⟩)
  · intro hp hlen hsize
    rw [step_of_pending hp]
    exact hostMemRead_of_invalid ((valid_eq_false_iff _ _).2 ⟨hlen, hsize⟩)

/-- Settles O11: the registers are those of the reset state and the memory is fresh. -/
theorem resetEventClearsRegisters : Obligations.ResetEventClearsRegisters := by
  intro s rest hp
  exact ⟨_, step_of_pending hp, fun n => readRegister_resetState n _, rfl, rfl, fun x => read_fresh _ _ x⟩

/-- Settles O13. -/
theorem resetRegistersReadZero : Obligations.ResetRegistersReadZero := readRegister_reset

end Sys2Proof.Machine
end

section
/-! The histogram commands (spec/42_curve_engine.md R169 to R175): their output is one buffer of counts, each count of the model is
the size of a set of items, and it fits the four bytes it is stored in. -/

namespace Sys2Proof.Machine

/-! ## Counts of items -/

/-- A count is the size of the set of items counted. -/
theorem countItems_eq_card (n : Nat) (p : Nat → Prop) [DecidablePred p] :
    countItems n (fun i => decide (p i)) = ((Finset.range n).filter p).card :=
  Nat.count_eq_card_filter_range p n

theorem countItems_le (n : Nat) (p : Nat → Bool) : countItems n p ≤ n := by
  simpa [countItems] using List.countP_le_length (p := p) (l := List.range n)

/-- A pixel count, and so every count of pixels, fits four bytes: it is a positive `s32` (R155). -/
theorem pixelCount_lt (s : State) : pixelCount s < 2 ^ 32 := by
  have h : s32 s.a[1] < 2 ^ 31 := BitVec.toInt_lt
  unfold pixelCount
  omega

theorem countItems_lt (s : State) (p : Nat → Bool) : countItems (pixelCount s) p < 2 ^ 32 :=
  (countItems_le _ p).trans_lt (pixelCount_lt s)

/-- The channel counts of R169, as sizes of sets of pixels. -/
theorem channelCount_eq_card (s : State) (c v : Nat) :
    channelCount s c v
      = ((Finset.range (s32 s.a[1]).toNat).filter fun i => (s.mem.read (u32 s.a[0] + 4 * i + c)).toNat = v).card :=
  countItems_eq_card _ _

/-- The luma counts of R173, as sizes of sets of GB7 bytes. -/
theorem lumaCount_eq_card (s : State) (v : Nat) :
    lumaCount s v
      = ((Finset.range (s32 s.a[1]).toNat).filter fun i => (s.mem.read (u32 s.a[0] + i)).toNat % 128 = v).card :=
  countItems_eq_card _ _

/-! ## Bits of a byte -/

/-- A bit of a word in its number. -/
theorem getLsbD_iff {n : Nat} (w : BitVec n) (i : Nat) : w.getLsbD i = true ↔ w.toNat / 2 ^ i % 2 = 1 := by
  rw [← BitVec.testBit_toNat, Nat.testBit_eq_decide_div_mod_eq, decide_eq_true_eq]

/-- The mask bit of a GB7 byte in its number (R51). -/
theorem maskBit_iff (b : Byte) : maskBit b = true ↔ 128 ≤ b.toNat := by
  have hb : b.toNat < 256 := b.isLt
  rw [maskBit, getLsbD_iff]
  omega

/-- The half of the byte values a GB7 byte lies in, by its mask bit (R51). -/
theorem toNat_div_128 (b : Byte) : b.toNat / 128 = if maskBit b then 1 else 0 := by
  have hb : b.toNat < 256 := b.isLt
  have hmask := maskBit_iff b
  split_ifs with h
  · have := hmask.1 h
    omega
  · have : ¬ 128 ≤ b.toNat := fun hle => h (hmask.2 hle)
    omega

/-- The mask counts of R173, as sizes of sets of GB7 bytes. -/
theorem maskCount_eq_card (s : State) {b : Nat} (hb : b < 2) :
    maskCount s (decide (b = 1))
      = ((Finset.range (s32 s.a[1]).toNat).filter fun i => (s.mem.read (u32 s.a[0] + i)).toNat / 128 = b).card := by
  rw [← countItems_eq_card]
  unfold maskCount
  congr 1
  funext i
  rw [toNat_div_128]
  interval_cases b <;> cases maskBit (s.mem.read (u32 s.a[0] + i)) <;> rfl

/-! ## The outputs as one buffer of counts (R54) -/

theorem countBytes_congr {n : Nat} {f g : Nat → Nat} (h : ∀ v < n, f v = g v) : countBytes n f = countBytes n g :=
  List.flatMap_congr fun v hv => by rw [h v (List.mem_range.1 hv)]

/-- Two buffers of counts, one after the other, are one buffer of counts. -/
theorem countBytes_append (n k : Nat) (f g : Nat → Nat) :
    countBytes n f ++ countBytes k g = countBytes (n + k) fun v => if v < n then f v else g (v - n) := by
  rw [countBytes, countBytes, countBytes, List.range_add, List.flatMap_append, List.flatMap_map]
  congr 1
  · exact List.flatMap_congr fun v hv => by simp [List.mem_range.1 hv]
  · simp

/-- A single count is a buffer of one count. -/
theorem numBytes_eq_countBytes (v : Nat) : numBytes 4 v = countBytes 1 fun _ => v := by
  simp [countBytes]

/-- Count number `v` of HIST's output: bin `v mod 256` of block `v div 256` (R169, R170). -/
def histBin (ao : Bool) (s : State) (v : Nat) : Nat := channelCount s (if ao then 3 else v / 256) (v % 256)

/-- HIST writes one block of 256 counts with AO, else three (R170). -/
theorem histBytes_eq (ao : Bool) (s : State) : histBytes ao s = countBytes (if ao then 256 else 768) (histBin ao s) := by
  cases ao with
  | true => exact countBytes_congr fun v hv => by simp [histBin, Nat.mod_eq_of_lt hv]
  | false =>
    rw [histBytes, if_neg Bool.false_ne_true, countBytes_append, countBytes_append]
    refine countBytes_congr fun v hv => ?_
    simp only [histBin, Bool.false_eq_true, if_false]
    split_ifs with h512 h256
    · rw [show v / 256 = 0 by omega, show v % 256 = v by omega]
    · rw [show v / 256 = 1 by omega, show v % 256 = v - 256 by omega]
    · rw [show v / 256 = 2 by omega, show v % 256 = v - (256 + 256) by omega]

/-- Count number `v` of HISTG7's output: the luma counts, then the counts of mask bit 0 and 1 (R173, R174). -/
def histg7Bin (s : State) (v : Nat) : Nat := if v < 128 then lumaCount s v else maskCount s (decide (v = 129))

theorem histg7Bytes_eq (s : State) : histg7Bytes s = countBytes 130 (histg7Bin s) := by
  rw [histg7Bytes, numBytes_eq_countBytes, numBytes_eq_countBytes, countBytes_append, countBytes_append]
  refine countBytes_congr fun v hv => ?_
  obtain hluma | rfl | rfl : v < 128 ∨ v = 128 ∨ v = 129 := by omega
  · rw [histg7Bin, if_pos hluma, if_pos (by omega), if_pos hluma]
  · rfl
  · rfl

theorem histBin_lt (ao : Bool) (s : State) (v : Nat) : histBin ao s v < 2 ^ 32 := countItems_lt s _

theorem histg7Bin_lt (s : State) (v : Nat) : histg7Bin s v < 2 ^ 32 := by
  unfold histg7Bin
  split_ifs
  · exact countItems_lt s _
  · exact countItems_lt s _

/-! ## The statements -/

/-- Settles O39: every check passes, and bin `v` of block `c` is count `256*c + v` of the stored buffer. -/
theorem histWritesChannelCounts : Obligations.HistWritesChannelCounts := by
  intro ao s hcount hsource hdest hmeets
  have hchecks : ∀ c ∈ checks (.hist ao) s, c.1 = true := by
    simpa [checks, histChecks, hcount, hdest] using ⟨hcount, hsource, hmeets⟩
  refine ⟨_, exec_of_checks hchecks, frame_wrote (.hist ao) s _ _, rfl, rfl, fun v hv c hc => ?_⟩
  have hbin : 256 * c + v < if ao then 256 else 768 := by
    split_ifs at hc ⊢ <;> omega
  have hread := readNum_store_countBytes s.mem (u32 s.a[2]) _ (256 * c + v) (histBin ao s) hbin (histBin_lt ao s _)
  rw [← histBytes_eq, show u32 s.a[2] + 4 * (256 * c + v) = u32 s.a[2] + 1024 * c + 4 * v by ring] at hread
  refine hread.trans ?_
  rw [histBin, channelCount_eq_card, show (256 * c + v) / 256 = c by omega, show (256 * c + v) % 256 = v by omega]

/-- Settles O40: every check passes, and the counts are those of the stored buffer, the mask counts at 128 and 129. -/
theorem histg7WritesLumaAndMaskCounts : Obligations.Histg7WritesLumaAndMaskCounts := by
  intro s hcount hsource hdest hmeets
  have hchecks : ∀ c ∈ checks .histg7 s, c.1 = true := by
    simpa [checks, histg7Checks, countedSource, pixelCount, hcount, hdest] using ⟨hcount, hsource, hmeets⟩
  have hread : ∀ v < 130, (s.mem.store (u32 s.a[2]) (histg7Bytes s)).readNum (u32 s.a[2] + 4 * v) 4 = histg7Bin s v := by
    intro v hv
    rw [histg7Bytes_eq]
    exact readNum_store_countBytes s.mem _ 130 v _ hv (histg7Bin_lt s v)
  refine ⟨_, exec_of_checks hchecks, frame_wrote .histg7 s _ _, rfl, rfl, fun v hv => ?_, fun b hb => ?_⟩
  · refine (hread v (by omega)).trans ?_
    rw [histg7Bin, if_pos hv, lumaCount_eq_card]
  · rw [show u32 s.a[2] + 512 + 4 * b = u32 s.a[2] + 4 * (128 + b) by ring]
    refine (hread (128 + b) (by omega)).trans ?_
    rw [histg7Bin, if_neg (by omega), ← maskCount_eq_card s hb]
    congr 2
    rw [eq_iff_iff]
    omega

end Sys2Proof.Machine
end

section
/-! Layer descriptors and canonical pixels (spec/10_state.md R48, R57, spec/40_normalizer.md R106 to R112): each field of a
descriptor in numbers, and the normalized pixel of each kind of layer. -/

namespace Sys2Proof.Machine

/-! ## Numbers in memory (R61) -/

theorem readNum_lt (m : Memory) (x n : Nat) : m.readNum x n < 256 ^ n := by
  induction n generalizing x with
  | zero => simp [Memory.readNum]
  | succ n ih =>
    have hbyte : (m.read x).toNat + 1 ≤ 256 := (m.read x).isLt
    calc (m.read x).toNat * 256 ^ n + m.readNum (x + 1) n
        < (m.read x).toNat * 256 ^ n + 256 ^ n := Nat.add_lt_add_left (ih (x + 1)) _
      _ = ((m.read x).toNat + 1) * 256 ^ n := by ring
      _ ≤ 256 * 256 ^ n := Nat.mul_le_mul_right _ hbyte
      _ = 256 ^ (n + 1) := by ring

/-- A 32-bit field holds the number of its four bytes. -/
@[simp] theorem u32_readWord (m : Memory) (x : Nat) : u32 (m.readWord x) = m.readNum x 4 :=
  (BitVec.toNat_ofNat _ _).trans (Nat.mod_eq_of_lt (readNum_lt m x 4))

/-- The two's-complement reading of a word from its unsigned one (R15). -/
theorem s32_eq (w : Word) : s32 w = if u32 w < 2 ^ 31 then (u32 w : Int) else (u32 w : Int) - 2 ^ 32 := by
  unfold s32 u32
  rw [BitVec.toInt_eq_toNat_cond]
  split_ifs <;> omega

/-! ## The bytes of a descriptor (R48) -/

/-- The variants by the number of the KIND byte. -/
theorem layerKind_iff (b : Byte) :
    (layerKind b = some .raster ↔ b.toNat = 0) ∧ (layerKind b = some .gb7 ↔ b.toNat = 1)
      ∧ (layerKind b = some .flat ↔ b.toNat = 2) ∧ (layerKind b = none ↔ 3 ≤ b.toNat) := by
  unfold layerKind
  split
  next h => simp [h]
  next h => simp [h]
  next h => simp [h]
  next h0 h1 h2 =>
    have hrest : b.toNat ≠ 0 ∧ b.toNat ≠ 1 ∧ b.toNat ≠ 2 := ⟨h0, h1, h2⟩
    exact ⟨iff_of_false nofun h0, iff_of_false nofun h1, iff_of_false nofun h2, iff_of_true rfl (by omega)⟩

/-- The blend modes by the number in bits 1:0 of the BLEND byte. -/
theorem blendMode_iff (b : Byte) :
    (blendMode b = .normal ↔ b.toNat % 4 = 0) ∧ (blendMode b = .multiply ↔ b.toNat % 4 = 1)
      ∧ (blendMode b = .screen ↔ b.toNat % 4 = 2) ∧ (blendMode b = .overlay ↔ b.toNat % 4 = 3) := by
  have hlow : b.toNat % 4 = 2 * (b.getLsbD 1).toNat + (b.getLsbD 0).toNat := by
    rw [← BitVec.testBit_toNat, ← BitVec.testBit_toNat, Nat.toNat_testBit, Nat.toNat_testBit]
    omega
  unfold blendMode
  rw [hlow]
  cases b.getLsbD 1 <;> cases b.getLsbD 0 <;> simp

/-- A layer's opacity in numbers (R48, R229). -/
theorem layer_op (m : Memory) (p : Nat) :
    (m.layer p).op = ((min (m.readNum (p + 16) 4) 65536 : Nat) : Rat) / 65536 := by
  rw [← u32_readWord]
  rfl

theorem layer_dataRange (m : Memory) (p : Nat) :
    (m.layer p).dataRange
      = { base := m.readNum (p + 12) 4,
          len := if (m.read p).toNat = 0 then 4 * (m.layer p).pixels
                 else if (m.read p).toNat = 1 then (m.layer p).pixels else 0 } := by
  obtain ⟨hraster, hgb7, hflat, hnone⟩ := layerKind_iff (m.read p)
  rw [← u32_readWord]
  unfold Layer.dataRange
  split
  next hk => rw [if_pos (hraster.1 hk)]; rfl
  next hk => rw [if_neg (by have := hgb7.1 hk; omega), if_pos (hgb7.1 hk)]; rfl
  next hk => rw [if_neg (by have := hflat.1 hk; omega), if_neg (by have := hflat.1 hk; omega)]; rfl
  next hk => rw [if_neg (by have := hnone.1 hk; omega), if_neg (by have := hnone.1 hk; omega)]; rfl

/-! ## Canonical pixels (R107 to R112) -/

/-- Forcing the alpha leaves the colour. -/
theorem normPixel_colour (m : Memory) (l : Layer) (fo : Bool) (i : Nat) :
    (normPixel m l fo i).r = (storedPixel m l i).r ∧ (normPixel m l fo i).g = (storedPixel m l i).g
      ∧ (normPixel m l fo i).b = (storedPixel m l i).b := by
  unfold normPixel
  split_ifs <;> exact ⟨rfl, rfl, rfl⟩

theorem normPixel_alpha (m : Memory) (l : Layer) (fo : Bool) (i : Nat) :
    (normPixel m l fo i).a = if fo || l.alphaHidden || l.alphaRemoved then 255 else (storedPixel m l i).a := by
  unfold normPixel
  split_ifs <;> rfl

theorem storedPixel_raster {l : Layer} (h : l.kind = some .raster) (m : Memory) (i : Nat) :
    storedPixel m l i = m.rgba (u32 l.data) i := by
  simp [storedPixel, h]

theorem storedPixel_gb7 {l : Layer} (h : l.kind = some .gb7) (m : Memory) (i : Nat) :
    storedPixel m l i = gb7Pixel l.hasAlpha (m.read (u32 l.data + i)) := by
  simp [storedPixel, h]

theorem storedPixel_flat {l : Layer} (h : l.kind = some .flat) (m : Memory) (i : Nat) :
    storedPixel m l i = flatPixel l.data := by
  simp [storedPixel, h]

/-- A byte of a word in its number. -/
theorem toNat_extractByte (w : Word) (i : Nat) : (w.extractLsb' i 8).toNat = u32 w / 2 ^ i % 256 := by
  rw [BitVec.extractLsb'_toNat, Nat.shiftRight_eq_div_pow]

/-- The grey of a GB7 byte (R109). -/
theorem toNat_gb7Pixel_r (hasAlpha : Bool) (b : Byte) : (gb7Pixel hasAlpha b).r.toNat = b.toNat % 128 * 255 / 127 := by
  have hgrey : luma7 b * 255 / 127 ≤ 255 := by
    unfold luma7
    omega
  have := toNat_byteOf (v := (luma7 b * 255 / 127 : Nat)) (by omega) (by omega)
  exact_mod_cast this

/-- The alpha of a GB7 byte: transparent only where the layer declares a mask and the mask bit is 0 (R110). -/
theorem gb7Pixel_a (hasAlpha : Bool) (b : Byte) :
    (gb7Pixel hasAlpha b).a = if hasAlpha && decide (b.toNat < 128) then 0 else 255 := by
  have hmask : maskBit b = !decide (b.toNat < 128) := by
    rw [Bool.eq_iff_iff, maskBit_iff]
    simp
  unfold gb7Pixel
  rw [hmask]
  cases hasAlpha <;> cases decide (b.toNat < 128) <;> rfl

/-- Settles O25: the fields are those of the bytes and numbers of the descriptor; the colour is that of the stored pixel, and the
alpha is the stored one or forced. -/
theorem canonicalPixelByKind : Obligations.CanonicalPixelByKind := by
  refine ⟨fun m p => ?_, fun m l fo i => ?_⟩
  · have hflags := fun i => getLsbD_iff (m.read (p + 1)) i
    have hsigned := fun x => s32_eq (m.readWord x)
    simp only [u32_readWord] at hsigned
    exact ⟨layerKind_iff _, ⟨(hflags 0).trans (by rw [pow_zero, Nat.div_one]), hflags 1, hflags 2, hflags 3, hflags 4⟩,
      blendMode_iff _, hsigned _, hsigned _, u32_readWord _ _, layer_op m p, layer_dataRange m p⟩
  · obtain ⟨hr, hg, hb⟩ := normPixel_colour m l fo i
    have ha := normPixel_alpha m l fo i
    rw [hr, hg, hb, ha]
    refine ⟨fun hk => ?_, fun hk => ?_, fun hk => ?_⟩
    · rw [storedPixel_flat hk]
      refine ⟨toNat_extractByte _ 16, toNat_extractByte _ 8,
        (toNat_extractByte _ 0).trans (by rw [pow_zero, Nat.div_one]), ?_⟩
      split_ifs <;> rfl
    · rw [storedPixel_gb7 hk]
      refine ⟨toNat_gb7Pixel_r _ _, rfl, rfl, ?_⟩
      rw [gb7Pixel_a]
      cases fo || l.alphaHidden || l.alphaRemoved <;> simp
    · rw [storedPixel_raster hk]
      exact ⟨rfl, rfl, rfl, rfl⟩

end Sys2Proof.Machine
end

section
/-! The geometry of RENDER (spec/45_compositor.md R217 to R226) in integers: its layer stack, the canvas, where each layer is
placed, and the layers drawn. -/

namespace Sys2Proof.Machine

/-! ## The layer stack (R49) -/

@[simp] theorem length_layers (m : Memory) (table count : Nat) : (m.layers table count).length = count := by
  simp [Memory.layers]

theorem getElem_layers (m : Memory) (table count : Nat) {i : Nat} (h : i < (m.layers table count).length) :
    (m.layers table count)[i] = m.layer (table + 32 * i) := by
  simp [Memory.layers, descriptorSize]

/-! ## Scaled sides (R218, R219, R223) -/

/-- `2^32` times the scale of RENDER, an integer: the product of the two Q16.16 words (R218). -/
def scaleNum (s : State) : Int := (u32 s.a[3] : Int) * (u32 s.a[2] : Int)

theorem renderScale_eq (s : State) : renderScale s = (scaleNum s : Rat) / ((2 ^ 32 : Int) : Rat) := by
  unfold renderScale q16 scaleNum
  push_cast
  ring

/-- A side times the scale, rounded half up, in integers. -/
def scaledSide (s : State) (v : Int) : Int := (2 * (v * scaleNum s) + 2 ^ 32) / 2 ^ 33

theorem rnd_mul_renderScale (s : State) (v : Int) : rnd ((v : Rat) * renderScale s) = scaledSide s v := by
  rw [renderScale_eq, ← mul_div_assoc, ← Int.cast_mul, rnd_div _ _ (by norm_num)]
  rfl

theorem canvasSide_eq (s : State) (v : Int) : (canvasSide (renderScale s) v : Int) = max 0 (scaledSide s v) := by
  rw [canvasSide, rnd_mul_renderScale, Int.toNat_eq_max, max_comm]

/-! ## The canvas (R219) -/

/-- The canvas takes its size from the first layer that is not deleted. -/
theorem canvasSize_of_find {layers : List Layer} {l : Layer} (h : (layers.find? fun l => !l.deleted) = some l) (scale : Rat) :
    canvasSize scale layers = (canvasSide scale l.width, canvasSide scale l.height) := by
  unfold canvasSize
  rw [h]

/-- With every layer deleted the canvas is empty. -/
theorem canvasSize_of_deleted {layers : List Layer} (h : ∀ l ∈ layers, l.deleted = true) (scale : Rat) :
    canvasSize scale layers = (0, 0) := by
  have hfind : (layers.find? fun l => !l.deleted) = none := by
    simpa [List.find?_eq_none] using h
  unfold canvasSize
  rw [hfind]

/-! ## Placement (R223, R226) and the layers drawn (R215, R222) -/

/-- A layer is placed at its scaled size, centred, its offsets rounded toward minus infinity. -/
theorem place_eq (s : State) (cw ch : Nat) (l : Layer) :
    place (renderScale s) cw ch l
      = { dx := (cw - scaledSide s l.width) / 2, dy := (ch - scaledSide s l.height) / 2,
          drawW := scaledSide s l.width, drawH := scaledSide s l.height } := by
  simp [place, rnd_mul_renderScale, Int.fdiv_eq_ediv_of_nonneg]

/-- The form a layer must have for RENDER not to skip it (R222). -/
theorem malformed_eq_false_iff (m : Memory) (dest : Range) (l : Layer) :
    malformed m dest l = false ↔ l.kind ≠ none ∧ 0 < l.width ∧ 0 < l.height ∧ l.dataRange.valid m = true
      ∧ l.dataRange.meets dest = false := by
  simp [malformed, Layer.positive, Option.isSome_iff_ne_none, and_assoc]

/-- The skips of RENDER (R215, R220, R222, R223), with the draw size in integers. -/
theorem isDrawn_iff (s : State) (l : Layer) :
    isDrawn s l = true ↔ l.deleted = false ∧ l.visible = true ∧ malformed s.mem (renderDest s) l = false
      ∧ 0 < scaledSide s l.width ∧ 0 < scaledSide s l.height := by
  simp [isDrawn, place_eq, and_assoc]

/-! ## The statement -/

/-- Settles O54: each clause is the law of its definition, the sides written as `scaledSide`. -/
theorem renderGeometryInIntegers : Obligations.RenderGeometryInIntegers := by
  intro s
  refine ⟨⟨length_layers _ _ _, fun i h => getElem_layers _ _ _ h⟩, rfl, rfl, fun l hl => ?_, fun hdel => ?_,
    fun l => place_eq s _ _ l, List.filter_congr fun l _ => ?_⟩
  · rw [canvasW, canvasH, canvasSize_of_find hl]
    exact ⟨canvasSide_eq s l.width, canvasSide_eq s l.height⟩
  · rw [canvasW, canvasH, canvasSize_of_deleted hdel]
    exact ⟨rfl, rfl⟩
  · rw [Bool.eq_iff_iff, isDrawn_iff, malformed_eq_false_iff, decide_eq_true_eq]
    simp only [and_assoc]
    rfl

end Sys2Proof.Machine
end

section
/-! Ranges, numbers in memory and the write set of a command (spec/20_memory.md R61, R66, R68, R69). -/

namespace Sys2Proof.Machine

/-! ## Ranges (R69) -/

/-- Two ranges share a byte iff they have a common address: the larger base is one if there is any. -/
theorem meets_iff_common (g h : Range) : g.meets h = true ↔ ∃ x, g.has x = true ∧ h.has x = true := by
  simp only [meets_iff, has_iff]
  constructor
  · rintro ⟨hg, hh, hlt, hgt⟩
    exact ⟨max g.base h.base, by omega, by omega⟩
  · rintro ⟨x, hg, hh⟩
    omega

/-! ## Numbers (R61) -/

/-- `MemRead` is the sum of its bytes, each weighted by its place. -/
theorem readNum_eq_sum (m : Memory) (x n : Nat) :
    m.readNum x n = ∑ i ∈ Finset.range n, (m.read (x + i)).toNat * 256 ^ (n - 1 - i) := by
  induction n generalizing x with
  | zero => rfl
  | succ n ih =>
    rw [Memory.readNum, ih, Finset.sum_range_succ', add_comm]
    congr 1
    refine Finset.sum_congr rfl fun i _ => ?_
    rw [show x + 1 + i = x + (i + 1) by omega, show n + 1 - 1 - (i + 1) = n - 1 - i by omega]

/-- Byte `i` that `MemWrite(x, n, v)` leaves. -/
theorem read_store_numBytes (m : Memory) (x v : Nat) {n i : Nat} (h : i < n) :
    (m.store x (numBytes n v)).read (x + i) = BitVec.ofNat 8 (v / 256 ^ (n - 1 - i)) := by
  rw [read_store_mem (by simpa using h)]
  simp [numBytes]

/-! ## The write set of a command (R31, R68) -/

theorem setResults2_kept (r : Vector Word 6) (r0 r1 : Word) {n : Nat} (h : n < 6) (hn : 2 ≤ n) :
    (setResults2 r r0 r1)[n] = r[n] := by
  interval_cases n <;> rfl

theorem setResults3_kept (r : Vector Word 6) (r0 r1 r2 : Word) {n : Nat} (h : n < 6) (hn : 3 ≤ n) :
    (setResults3 r r0 r1 r2)[n] = r[n] := by
  interval_cases n <;> rfl

/-- A command leaves the result registers its row does not name (R31). -/
theorem results_kept (i : Instr) (s : State) {n : Nat} (h : n < 6) (hn : resultCount i ≤ n) :
    (results i s)[n] = s.r[n] := by
  cases i with
  | norm ao fo | gb7enc fo => exact setResults2_kept _ _ _ h hn
  | gb7dec => exact setResults3_kept _ _ _ _ h hn
  | render bl => exact absurd h (Nat.not_lt.2 hn)
  | _ => rfl

/-- An error changes STATUS alone, so it keeps any frame (R247). -/
theorem frame_raised (g : Range) (e : CoreError) (s : State) : Frame g s (raised e s) where
  operands := rfl
  kernel := rfl
  divisor := rfl
  bias := rfl
  size := rfl
  draw := rfl
  pending := rfl
  reply := rfl
  memory _ _ := rfl

/-- A command writes no memory but its destination range, whether it ends with an error or not. -/
theorem frame_exec {i : Instr} {s t : State} (h : exec i s = .next t) : Frame (destination i s) s t := by
  obtain ⟨e, -, rfl⟩ | ⟨-, rfl⟩ := exec_cases h
  · exact frame_raised _ e s
  · exact frame_wrote i s _ _

theorem exec_results_kept {i : Instr} {s t : State} (ht : exec i s = .next t) {n : Nat} (h : n < 6)
    (hn : resultCount i ≤ n) : t.r[n] = s.r[n] := by
  obtain ⟨e, -, rfl⟩ | ⟨-, rfl⟩ := exec_cases ht
  · rfl
  · exact results_kept i s h hn

/-- A command that does not end with the STATUS of a success wrote neither memory nor results (R68, R247). -/
theorem exec_error_writes_nothing {i : Instr} {s t : State} (ht : exec i s = .next t) (hstatus : t.status ≠ 0x00010000#32) :
    t.mem = s.mem ∧ t.r = s.r := by
  obtain ⟨e, -, rfl⟩ | ⟨-, rfl⟩ := exec_cases ht
  · exact ⟨rfl, rfl⟩
  · exact absurd rfl hstatus

/-! ## The statements -/

/-- Settles O16, from the frame of a command and the results it keeps. -/
theorem commandsWriteOnlyDestination : Obligations.CommandsWriteOnlyDestination := by
  intro i s t ht
  have hframe := frame_exec ht
  exact ⟨hframe.memory, fun n h hn => exec_results_kept ht h hn, exec_error_writes_nothing ht, hframe.operands,
    hframe.kernel, hframe.divisor, hframe.bias, hframe.size, hframe.draw, hframe.pending, hframe.reply⟩

/-- Settles O22. -/
theorem rangesAreValidAndMeetByAddress : Obligations.RangesAreValidAndMeetByAddress :=
  fun g h m => ⟨valid_iff g m, meets_iff_common g h⟩

/-- Settles O23: the bytes left by a store are the digits of the number in base 256, and reading adds them up. -/
theorem numbersAreBigEndian : Obligations.NumbersAreBigEndian := by
  intro m x n v
  have hbytes : ∀ i < n, (m.store x (numBytes n v)).read (x + i) = BitVec.ofNat 8 (v / 256 ^ (n - 1 - i)) :=
    fun i hi => read_store_numBytes m x v hi
  refine ⟨readNum_eq_sum m x n, fun i hi => ?_, fun hv => ?_⟩
  · rw [hbytes i hi, BitVec.toNat_ofNat]
  · rw [readNum_numBytes n v hbytes, Nat.mod_eq_of_lt hv]

end Sys2Proof.Machine
end

section
/-! Memories that hold the same bytes in a range (spec/20_memory.md R69, R78): what is read inside the range is the same, from a
number or a pixel up to a whole layer resampled. -/

namespace Sys2Proof.Machine

/-! ## Bytes, numbers and pixels -/

/-- The two memories hold the same byte at every address of the range. -/
def SameBytes (g : Range) (m m' : Memory) : Prop := ∀ x, g.has x = true → m'.read x = m.read x

/-- An address of a range lies in no range that it does not meet (R69). -/
theorem has_eq_false_of_not_meets {g h : Range} (hgh : g.meets h = false) {x : Nat} (hx : h.has x = true) : g.has x = false :=
  Bool.eq_false_iff.2 fun hg => Bool.eq_false_iff.1 hgh ((meets_iff_common g h).2 ⟨x, hg, hx⟩)

/-- A stored address reads the same whatever memory it was stored into. -/
theorem read_store_of_has {m m' : Memory} {base : Nat} {bs : List Byte} {x : Nat}
    (h : Range.has { base := base, len := bs.length } x = true) : (m'.store base bs).read x = (m.store base bs).read x := by
  obtain ⟨hlo, hhi⟩ := (has_iff _ _).1 h
  obtain ⟨k, rfl⟩ := Nat.exists_eq_add_of_le hlo
  have hk : k < bs.length := Nat.lt_of_add_lt_add_left hhi
  rw [read_store_mem hk, read_store_mem hk]

/-- The size of a memory is all that the validity of a range asks of it (R66). -/
theorem valid_congr {m m' : Memory} (h : m'.size = m.size) (g : Range) : g.valid m' = g.valid m := by
  simp [Range.valid, h]

/-- A pixel of an image has an index below the image's number of pixels (R20). -/
theorem pixelIndex_lt {x y w h : Nat} (hx : x < w) (hy : y < h) : y * w + x < w * h :=
  calc y * w + x < (y + 1) * w := by rw [Nat.succ_mul]; omega
    _ ≤ h * w := Nat.mul_le_mul_right w hy
    _ = w * h := Nat.mul_comm h w

section
variable {m m' : Memory} {p n : Nat}

theorem SameBytes.read (h : SameBytes { base := p, len := n } m m') {i : Nat} (hi : i < n) :
    m'.read (p + i) = m.read (p + i) :=
  h _ ((has_iff _ _).2 ⟨Nat.le_add_right p i, Nat.add_lt_add_left hi p⟩)

theorem SameBytes.readNum (h : SameBytes { base := p, len := n } m m') {i k : Nat} (hi : i + k ≤ n) :
    m'.readNum (p + i) k = m.readNum (p + i) k :=
  readNum_congr k fun j hj => by
    rw [Nat.add_assoc]
    exact h.read (by omega)

theorem SameBytes.readWord (h : SameBytes { base := p, len := n } m m') {i : Nat} (hi : i + 4 ≤ n) :
    m'.readWord (p + i) = m.readWord (p + i) :=
  congrArg (BitVec.ofNat 32) (h.readNum hi)

theorem SameBytes.readBytes (h : SameBytes { base := p, len := n } m m') {i k : Nat} (hi : i + k ≤ n) :
    m'.readBytes (p + i) k = m.readBytes (p + i) k :=
  List.map_congr_left fun j hj => by
    have := List.mem_range.1 hj
    rw [Nat.add_assoc]
    exact h.read (by omega)

/-- Byte `c` of pixel `i` of an RGBA buffer (R50). -/
theorem SameBytes.channel (h : SameBytes { base := p, len := 4 * n } m m') {i c : Nat} (hi : i < n) (hc : c < 4) :
    m'.read (p + 4 * i + c) = m.read (p + 4 * i + c) := by
  rw [Nat.add_assoc]
  exact h.read (by omega)

theorem SameBytes.rgba (h : SameBytes { base := p, len := 4 * n } m m') {i : Nat} (hi : i < n) :
    m'.rgba p i = m.rgba p i := by
  have hr : m'.read (p + 4 * i) = m.read (p + 4 * i) := h.channel hi (c := 0) (by decide)
  simp only [Memory.rgba, hr, h.channel hi (c := 1) (by decide), h.channel hi (c := 2) (by decide),
    h.channel hi (c := 3) (by decide)]

theorem SameBytes.px {w h : Nat} (hs : SameBytes { base := p, len := 4 * (w * h) } m m') {x y : Nat} (hx : x < w)
    (hy : y < h) : m'.px p w x y = m.px p w x y :=
  hs.rgba (pixelIndex_lt hx hy)

/-- Clamp-to-edge sampling stays inside the image, wherever the sample lies (R180). -/
theorem SameBytes.sample {w h : Nat} (hs : SameBytes { base := p, len := 4 * (w * h) } m m') (hw : 0 < w) (hh : 0 < h)
    (x y : Int) : sample m' p w h x y = sample m p w h x y := by
  have hx := clamp_mem (v := x) (lo := 0) (hi := (w : Int) - 1) (by omega)
  have hy := clamp_mem (v := y) (lo := 0) (hi := (h : Int) - 1) (by omega)
  exact hs.px (by omega) (by omega)

/-! ## Layers (R48, R49, R107) -/

theorem SameBytes.layer (h : SameBytes { base := p, len := n } m m') {i : Nat} (hi : i + 32 ≤ n) :
    m'.layer (p + i) = m.layer (p + i) := by
  have hbyte : ∀ j < 32, m'.read (p + i + j) = m.read (p + i + j) := fun j hj => by
    rw [Nat.add_assoc]
    exact h.read (by omega)
  have hword : ∀ j, j + 4 ≤ 32 → m'.readWord (p + i + j) = m.readWord (p + i + j) := fun j hj => by
    rw [Nat.add_assoc]
    exact h.readWord (by omega)
  have hkind : m'.read (p + i) = m.read (p + i) := hbyte 0 (by decide)
  simp only [Memory.layer, hkind, hbyte 1 (by decide), hbyte 2 (by decide), hword 4 (by decide), hword 8 (by decide),
    hword 12 (by decide), hword 16 (by decide)]

theorem SameBytes.layers {count : Nat} (h : SameBytes { base := p, len := descriptorSize * count } m m') :
    m'.layers p count = m.layers p count :=
  List.map_congr_left fun i hi => h.layer (by
    have := List.mem_range.1 hi
    unfold descriptorSize
    omega)

/-- A pixel of a layer is made of the bytes of its data range (R57, R106). -/
theorem SameBytes.normPixel {l : Layer} (h : SameBytes l.dataRange m m') (fo : Bool) {i : Nat} (hi : i < l.pixels) :
    normPixel m' l fo i = normPixel m l fo i := by
  have hstored : storedPixel m' l i = storedPixel m l i := by
    unfold storedPixel
    unfold Layer.dataRange at h
    cases hk : l.kind with
    | none => rfl
    | some k =>
      rw [hk] at h
      cases k with
      | raster => exact h.rgba hi
      | gb7 => exact congrArg (gb7Pixel l.hasAlpha) (h.read hi)
      | flat => rfl
  simp only [Machine.normPixel, hstored]
end

/-! ## Resampling (R202, R204) -/

section
variable {f g : Nat → Nat → Pixel} {sw sh dw dh x y : Nat}

/-! Both interpolations look at pixels inside the source only, so they do not see where two sources differ outside. -/

theorem nearest_congr (h : ∀ x < sw, ∀ y < sh, f x y = g x y) (hsw : 0 < sw) (hsh : 0 < sh) (hx : x < dw) (hy : y < dh) :
    nearest f sw sh dw dh x y = nearest g sw sh dw dh x y :=
  h _ (Nat.div_lt_of_lt_mul (Nat.mul_lt_mul_of_pos_right hx hsw)) _
    (Nat.div_lt_of_lt_mul (Nat.mul_lt_mul_of_pos_right hy hsh))

theorem bilinear_congr (h : ∀ x < sw, ∀ y < sh, f x y = g x y) (hsw : 0 < sw) (hsh : 0 < sh) (hx : x < dw) (hy : y < dh) :
    bilinear f sw sh dw dh x y = bilinear g sw sh dw dh x y := by
  have hx0 : x * (sw - 1) / dw ≤ sw - 1 := Nat.div_le_of_le_mul (Nat.mul_le_mul_right _ hx.le)
  have hy0 : y * (sh - 1) / dh ≤ sh - 1 := Nat.div_le_of_le_mul (Nat.mul_le_mul_right _ hy.le)
  unfold bilinear
  simp only [h (x * (sw - 1) / dw) (by omega) (y * (sh - 1) / dh) (by omega),
    h (min (x * (sw - 1) / dw + 1) (sw - 1)) (by omega) (y * (sh - 1) / dh) (by omega),
    h (x * (sw - 1) / dw) (by omega) (min (y * (sh - 1) / dh + 1) (sh - 1)) (by omega),
    h (min (x * (sw - 1) / dw + 1) (sw - 1)) (by omega) (min (y * (sh - 1) / dh + 1) (sh - 1)) (by omega)]
end

/-- A drawn layer's pixel is made of the bytes of its data range (R224, R225). -/
theorem SameBytes.layerPixel {m m' : Memory} {l : Layer} (h : SameBytes l.dataRange m m') (bl : Bool) (hw : 0 < l.width)
    (hh : 0 < l.height) {dw dh u v : Nat} (hu : u < dw) (hv : v < dh) :
    layerPixel m' bl l dw dh u v = layerPixel m bl l dw dh u v := by
  have hsrc : ∀ x < l.width.toNat, ∀ y < l.height.toNat,
      Machine.normPixel m' l false (y * l.width.toNat + x) = Machine.normPixel m l false (y * l.width.toNat + x) := by
    intro x hx y hy
    refine h.normPixel false ?_
    rw [Layer.pixels, Int.toNat_mul hw.le hh.le]
    exact pixelIndex_lt hx hy
  cases bl with
  | false =>
    simp only [Machine.layerPixel, Bool.false_eq_true, if_false]
    exact nearest_congr hsrc (by omega) (by omega) hu hv
  | true =>
    simp only [Machine.layerPixel, if_true]
    exact bilinear_congr hsrc (by omega) (by omega) hu hv

/-! ## Buffers -/

theorem pixelBytes_congr {n : Nat} {f g : Nat → Pixel} (h : ∀ i < n, f i = g i) : pixelBytes n f = pixelBytes n g :=
  List.flatMap_congr fun i hi => by rw [h i (List.mem_range.1 hi)]

theorem imageBytes_congr {w h : Nat} {f g : Nat → Nat → Pixel} (hfg : ∀ x < w, ∀ y < h, f x y = g x y) :
    imageBytes w h f = imageBytes w h g :=
  pixelBytes_congr fun i hi => by
    have hw : 0 < w := Nat.pos_of_mul_pos_right (Nat.zero_lt_of_lt hi)
    exact hfg _ (Nat.mod_lt i hw) _ (Nat.div_lt_of_lt_mul hi)

theorem countItems_congr {n : Nat} {p q : Nat → Bool} (h : ∀ i < n, p i = q i) : countItems n p = countItems n q :=
  List.countP_congr fun i hi => by rw [h i (List.mem_range.1 hi)]

end Sys2Proof.Machine
end

section
/-! A command on the same registers and the same source bytes (spec/20_memory.md R68, R69, R78): its checks end the same way, and
where they pass it has the same destination, output and results; so a command issued again changes nothing. -/

namespace Sys2Proof.Machine

/-! ## What the checks that passed say -/

/-- A file that GB7DEC accepts holds its header and its pixels (R123). -/
theorem gb7dec_payload_le {s : State} (h : firstFailing (gb7decChecks s) = none) :
    12 + gb7Width s * gb7Height s ≤ u32 s.a[1] := by
  have hcheck := firstFailing_eq_none.1 h (decide (gb7HeaderSize + gb7Width s * gb7Height s ≤ u32 s.a[1]), .formatTruncated)
    (by simp [gb7decChecks])
  exact of_decide_eq_true hcheck

/-- The size a convolution accepts is positive (R191). -/
theorem conv_size_pos {s : State} {ksel : KernelSel} (h : firstFailing (convChecks ksel s) = none) :
    0 < convWidth s ∧ 0 < convHeight s := by
  have hcheck := firstFailing_eq_none.1 h (decide (0 < s32 s.a[1]) && decide (0 < s32 s.a[2]), .dimSource)
    (by simp [convChecks])
  simpa [convWidth, convHeight] using hcheck

/-- The source size a resampling accepts is positive (R201). -/
theorem resample_source_pos {s : State} (h : firstFailing (resampleChecks s) = none) :
    0 < (resampleSizes s).sw ∧ 0 < (resampleSizes s).sh := by
  have hcheck := firstFailing_eq_none.1 h (decide (0 < s32 s.a[1]) && decide (0 < s32 s.a[2]), .dimSource)
    (by simp [resampleChecks])
  simpa [resampleSizes] using hcheck

/-! ## The layer commands: NORM and GB7ENC -/

section
variable {s : State} {m : Memory} (hsize : m.size = s.mem.size)

theorem layer_congr (hd : SameBytes (descriptorRange s) s.mem m) : m.layer (u32 s.a[0]) = s.mem.layer (u32 s.a[0]) :=
  hd.layer (i := 0) (by decide)

include hsize in
theorem normChecks_congr (hd : SameBytes (descriptorRange s) s.mem m) : normChecks { s with mem := m } = normChecks s := by
  simp only [normChecks, normDest, descriptorRange, layer_congr hd, valid_congr hsize]

include hsize in
theorem gb7encChecks_congr (hd : SameBytes (descriptorRange s) s.mem m) :
    gb7encChecks { s with mem := m } = gb7encChecks s := by
  simp only [gb7encChecks, gb7encDest, descriptorRange, layer_congr hd, valid_congr hsize]

theorem normBytes_congr (hd : SameBytes (descriptorRange s) s.mem m)
    (hl : SameBytes (s.mem.layer (u32 s.a[0])).dataRange s.mem m) (ao fo : Bool) :
    normBytes ao fo { s with mem := m } = normBytes ao fo s := by
  simp only [normBytes, layer_congr hd]
  refine pixelBytes_congr fun i hi => ?_
  simp only [normOutput, layer_congr hd, hl.normPixel fo hi]

theorem gb7encPixel_congr (hd : SameBytes (descriptorRange s) s.mem m)
    (hl : SameBytes (s.mem.layer (u32 s.a[0])).dataRange s.mem m) (fo : Bool) {i : Nat}
    (hi : i < (s.mem.layer (u32 s.a[0])).pixels) : gb7encPixel fo { s with mem := m } i = gb7encPixel fo s i := by
  simp only [gb7encPixel, layer_congr hd, hl.normPixel fo hi]

theorem hasMask_congr {n : Nat} {f g : Nat → Pixel} (h : ∀ i < n, f i = g i) : hasMask n f = hasMask n g := by
  rw [Bool.eq_iff_iff]
  simp only [hasMask, List.any_eq_true, List.mem_range]
  exact exists_congr fun i => and_congr_right fun hi => by rw [h i hi]

theorem gb7encFile_congr (hd : SameBytes (descriptorRange s) s.mem m)
    (hl : SameBytes (s.mem.layer (u32 s.a[0])).dataRange s.mem m) (fo : Bool) :
    gb7encFile fo { s with mem := m } = gb7encFile fo s := by
  have hpixel := fun i hi => gb7encPixel_congr hd hl fo (i := i) hi
  simp only [gb7encFile, layer_congr hd, hasMask_congr hpixel]
  congr 1
  exact List.map_congr_left fun i hi => by rw [hpixel i (List.mem_range.1 hi)]

theorem gb7encResults_congr (hd : SameBytes (descriptorRange s) s.mem m)
    (hl : SameBytes (s.mem.layer (u32 s.a[0])).dataRange s.mem m) (fo : Bool) :
    gb7encResults fo { s with mem := m } = gb7encResults fo s := by
  have hpixel := fun i hi => gb7encPixel_congr hd hl fo (i := i) hi
  simp only [gb7encResults, layer_congr hd, hasMask_congr hpixel]

/-! ## GB7DEC -/

/-- What the header of a file of at least twelve bytes says lies inside the file (R120). -/
theorem gb7Header_congr (hf : SameBytes (gb7File s) s.mem m) (hlen : 12 ≤ u32 s.a[1]) :
    gb7Width { s with mem := m } = gb7Width s ∧ gb7Height { s with mem := m } = gb7Height s
      ∧ m.readNum (u32 s.a[0]) 4 = s.mem.readNum (u32 s.a[0]) 4
      ∧ m.read (u32 s.a[0] + 4) = s.mem.read (u32 s.a[0] + 4)
      ∧ m.read (u32 s.a[0] + 5) = s.mem.read (u32 s.a[0] + 5) :=
  ⟨hf.readNum (by omega), hf.readNum (by omega), hf.readNum (i := 0) (by omega), hf.read (by omega), hf.read (by omega)⟩

include hsize in
/-- The header is looked at only where the file has one: a shorter file ends with FormatError(1) whatever it holds (R125). -/
theorem gb7decChecks_congr (hf : SameBytes (gb7File s) s.mem m) :
    firstFailing (gb7decChecks { s with mem := m }) = firstFailing (gb7decChecks s) := by
  by_cases hlen : 12 ≤ u32 s.a[1]
  · obtain ⟨hw, hh, hmagic, hversion, -⟩ := gb7Header_congr hf hlen
    simp only [gb7decChecks, gb7decDest, gb7File, hw, hh, hmagic, hversion, valid_congr hsize]
  · simp [gb7decChecks, firstFailing_cons, gb7HeaderSize, hlen, gb7File, valid_congr hsize]

theorem gb7decBytes_congr (hf : SameBytes (gb7File s) s.mem m) (hlen : 12 + gb7Width s * gb7Height s ≤ u32 s.a[1]) :
    gb7decBytes { s with mem := m } = gb7decBytes s := by
  obtain ⟨hw, hh, -⟩ := gb7Header_congr hf (by omega)
  simp only [gb7decBytes, hw, hh]
  exact hf.readBytes (i := gb7HeaderSize) hlen

theorem gb7decResults_congr (hf : SameBytes (gb7File s) s.mem m) (hlen : 12 ≤ u32 s.a[1]) :
    gb7decResults { s with mem := m } = gb7decResults s := by
  obtain ⟨hw, hh, -, -, hflags⟩ := gb7Header_congr hf hlen
  simp only [gb7decResults, hw, hh, hflags]

/-! ## The Curve Engine -/

theorem curveChannel_congr {provided : Bool} {p : Word} (h : SameBytes (lutRange provided p 256) s.mem m) (v : Byte) :
    curveChannel m provided p v = curveChannel s.mem provided p v := by
  cases provided with
  | false => rfl
  | true => exact h.read v.isLt

theorem curveBytes_congr {lr lg lb la : Bool} (hsrc : SameBytes (countedSource 4 s) s.mem m)
    (hr : SameBytes (lutRange lr s.a[3] 256) s.mem m) (hg : SameBytes (lutRange lg s.a[4] 256) s.mem m)
    (hb : SameBytes (lutRange lb s.a[5] 256) s.mem m) (ha : SameBytes (lutRange la s.a[6] 256) s.mem m) :
    curveBytes lr lg lb la { s with mem := m } = curveBytes lr lg lb la s :=
  pixelBytes_congr fun i hi => by
    have hpixel : m.rgba (u32 s.a[0]) i = s.mem.rgba (u32 s.a[0]) i := hsrc.rgba hi
    simp only [curveOutput, hpixel, curveChannel_congr hr, curveChannel_congr hg, curveChannel_congr hb,
      curveChannel_congr ha]

theorem newLuma_congr {yl : Bool} {p : Word} (h : SameBytes (lutRange yl p 128) s.mem m) (b : Byte) :
    newLuma m yl p b = newLuma s.mem yl p b := by
  cases yl with
  | false => rfl
  | true => exact congrArg BitVec.toNat (h.read (Nat.mod_lt _ (by decide)))

theorem curveg7Bytes_congr {yl : Bool} (hsrc : SameBytes (countedSource 1 s) s.mem m)
    (hy : SameBytes (lutRange yl s.a[3] 128) s.mem m) (am : AlphaMode) (inv : Bool) (cmb : Combine) :
    curveg7Bytes yl am inv cmb { s with mem := m } = curveg7Bytes yl am inv cmb s :=
  List.map_congr_left fun i hi => by
    have hpixel : m.read (u32 s.a[0] + i) = s.mem.read (u32 s.a[0] + i) :=
      hsrc.read (by simpa [pixelCount] using hi)
    simp only [curveg7Byte, hpixel, newLuma_congr hy]

theorem channelCount_congr (hsrc : SameBytes (countedSource 4 s) s.mem m) {c : Nat} (hc : c < 4) :
    channelCount { s with mem := m } c = channelCount s c := by
  funext v
  refine countItems_congr fun i hi => ?_
  have hbyte : m.read (u32 s.a[0] + 4 * i + c) = s.mem.read (u32 s.a[0] + 4 * i + c) := hsrc.channel hi hc
  simp only [hbyte]

theorem histBytes_congr (hsrc : SameBytes (countedSource 4 s) s.mem m) (ao : Bool) :
    histBytes ao { s with mem := m } = histBytes ao s := by
  simp only [histBytes, channelCount_congr hsrc (c := 0) (by decide), channelCount_congr hsrc (c := 1) (by decide),
    channelCount_congr hsrc (c := 2) (by decide), channelCount_congr hsrc (c := 3) (by decide)]

theorem histg7Bytes_congr (hsrc : SameBytes (countedSource 1 s) s.mem m) :
    histg7Bytes { s with mem := m } = histg7Bytes s := by
  have hbyte : ∀ i < pixelCount s, m.read (u32 s.a[0] + i) = s.mem.read (u32 s.a[0] + i) :=
    fun i hi => hsrc.read (by simpa using hi)
  have hluma : lumaCount { s with mem := m } = lumaCount s :=
    funext fun v => countItems_congr fun i hi => by simp only [hbyte i hi]
  have hmask : maskCount { s with mem := m } = maskCount s :=
    funext fun b => countItems_congr fun i hi => by simp only [hbyte i hi]
  simp only [histg7Bytes, hluma, hmask]

/-! ## The Convolution Engine and the Resampler -/

theorem convolveChannel_congr {p w h : Nat} (hsrc : SameBytes { base := p, len := 4 * (w * h) } s.mem m) (hw : 0 < w)
    (hh : 0 < h) (ker : Kernel) (chan : Pixel → Byte) (x y : Nat) :
    convolveChannel m p w h ker chan x y = convolveChannel s.mem p w h ker chan x y := by
  simp only [convolveChannel, convAcc, hsrc.sample hw hh]

@[simp] theorem convWidth_withMem (s : State) (m : Memory) : convWidth { s with mem := m } = convWidth s := rfl

@[simp] theorem convHeight_withMem (s : State) (m : Memory) : convHeight { s with mem := m } = convHeight s := rfl

@[simp] theorem selectKernel_withMem (s : State) (m : Memory) (ksel : KernelSel) :
    selectKernel { s with mem := m } ksel = selectKernel s ksel := by
  cases ksel <;> rfl

theorem convrgbBytes_congr (hsrc : SameBytes (convSource s) s.mem m) (hpos : 0 < convWidth s ∧ 0 < convHeight s)
    (ksel : KernelSel) : convrgbBytes ksel { s with mem := m } = convrgbBytes ksel s :=
  imageBytes_congr fun x hx y hy => by
    have hpixel : m.px (u32 s.a[0]) (convWidth s) x y = s.mem.px (u32 s.a[0]) (convWidth s) x y := hsrc.px hx hy
    simp only [convrgbOutput, convWidth_withMem, convHeight_withMem, selectKernel_withMem,
      convolveChannel_congr hsrc hpos.1 hpos.2, hpixel]

theorem convaBytes_congr (hsrc : SameBytes (convSource s) s.mem m) (hpos : 0 < convWidth s ∧ 0 < convHeight s)
    (ksel : KernelSel) : convaBytes ksel { s with mem := m } = convaBytes ksel s :=
  imageBytes_congr fun x hx y hy => by
    have hpixel : m.px (u32 s.a[0]) (convWidth s) x y = s.mem.px (u32 s.a[0]) (convWidth s) x y := hsrc.px hx hy
    simp only [convaOutput, convWidth_withMem, convHeight_withMem, selectKernel_withMem,
      convolveChannel_congr hsrc hpos.1 hpos.2, hpixel]

theorem resampleSource_congr (hsrc : SameBytes (resampleRange s) s.mem m) :
    ∀ x < (resampleSizes s).sw, ∀ y < (resampleSizes s).sh,
      resampleSource { s with mem := m } x y = resampleSource s x y :=
  fun _ hx _ hy => hsrc.px hx hy

theorem rsnnBytes_congr (hsrc : SameBytes (resampleRange s) s.mem m)
    (hpos : 0 < (resampleSizes s).sw ∧ 0 < (resampleSizes s).sh) : rsnnBytes { s with mem := m } = rsnnBytes s :=
  imageBytes_congr fun _ hx _ hy => nearest_congr (resampleSource_congr hsrc) hpos.1 hpos.2 hx hy

theorem rsblBytes_congr (hsrc : SameBytes (resampleRange s) s.mem m)
    (hpos : 0 < (resampleSizes s).sw ∧ 0 < (resampleSizes s).sh) : rsblBytes { s with mem := m } = rsblBytes s :=
  imageBytes_congr fun _ hx _ hy => bilinear_congr (resampleSource_congr hsrc) hpos.1 hpos.2 hx hy

/-! ## The Layer Compositor -/

theorem renderLayers_congr (ht : SameBytes (tableRange s) s.mem m) : renderLayers { s with mem := m } = renderLayers s :=
  ht.layers

/-- The canvas, and with it the destination, is a matter of the layer table alone (R219). -/
theorem canvas_congr (ht : SameBytes (tableRange s) s.mem m) :
    canvasW { s with mem := m } = canvasW s ∧ canvasH { s with mem := m } = canvasH s := by
  simp only [canvasW, canvasH, renderLayers_congr ht]
  exact ⟨rfl, rfl⟩

theorem renderDest_congr (ht : SameBytes (tableRange s) s.mem m) : renderDest { s with mem := m } = renderDest s := by
  obtain ⟨hw, hh⟩ := canvas_congr ht
  simp only [renderDest, hw, hh]

/-- Where RENDER places a layer on its canvas (R223, R226). -/
theorem place_congr (ht : SameBytes (tableRange s) s.mem m) (l : Layer) :
    place (renderScale { s with mem := m }) (canvasW { s with mem := m }) (canvasH { s with mem := m }) l
      = place (renderScale s) (canvasW s) (canvasH s) l := by
  obtain ⟨hw, hh⟩ := canvas_congr ht
  rw [hw, hh]
  rfl

include hsize in
theorem renderChecks_congr (ht : SameBytes (tableRange s) s.mem m) : renderChecks { s with mem := m } = renderChecks s := by
  simp only [renderChecks, renderDest_congr ht, tableRange, valid_congr hsize]

include hsize in
/-- Which layers RENDER skips is decided by their descriptors and MEM_SIZE, not by their data (R222). -/
theorem drawnLayers_congr (ht : SameBytes (tableRange s) s.mem m) : drawnLayers { s with mem := m } = drawnLayers s := by
  have hdrawn : isDrawn { s with mem := m } = isDrawn s := by
    funext l
    simp only [isDrawn, malformed, place_congr ht, renderDest_congr ht, valid_congr hsize]
  simp only [drawnLayers, renderLayers_congr ht, hdrawn]

/-- One layer drawn on one canvas pixel: its data is read only where the layer covers the pixel (R227). -/
theorem drawOn_congr (ht : SameBytes (tableRange s) s.mem m) {l : Layer} (hl : l ∈ drawnLayers s)
    (hdata : SameBytes l.dataRange s.mem m) (bl : Bool) (cx cy : Nat) (acc : Pixel) :
    drawOn { s with mem := m } bl cx cy acc l = drawOn s bl cx cy acc l := by
  obtain ⟨-, -, hform, -, -⟩ := (isDrawn_iff s l).1 (List.mem_filter.1 hl).2
  obtain ⟨-, hw, hh, -, -⟩ := (malformed_eq_false_iff _ _ _).1 hform
  simp only [drawOn, place_congr ht]
  split_ifs with hcover
  · rw [hdata.layerPixel bl hw hh (by omega) (by omega)]
  · rfl

include hsize in
theorem renderBytes_congr (ht : SameBytes (tableRange s) s.mem m)
    (hdata : ∀ l ∈ drawnLayers s, SameBytes l.dataRange s.mem m) (bl : Bool) :
    renderBytes bl { s with mem := m } = renderBytes bl s := by
  obtain ⟨hw, hh⟩ := canvas_congr ht
  simp only [renderBytes, hw, hh]
  refine imageBytes_congr fun x _ y _ => ?_
  simp only [canvasPixel, drawnLayers_congr hsize ht]
  exact List.foldl_ext _ _ _ fun acc l hl => drawOn_congr ht hl (hdata l hl) bl x y acc

include hsize in
theorem renderResults_congr (ht : SameBytes (tableRange s) s.mem m) :
    renderResults { s with mem := m } = renderResults s := by
  obtain ⟨hw, hh⟩ := canvas_congr ht
  have hlast : lastPlacement { s with mem := m } = lastPlacement s := by
    simp only [lastPlacement, drawnLayers_congr hsize ht, place_congr ht]
  simp only [renderResults, hw, hh, hlast]

end

/-! ## Every command -/

/-- The registers a command reads, MEM_SIZE and the bytes of its sources are the same in the two states (R69, R78). -/
structure SameInputs (i : Instr) (s u : State) : Prop where
  operands : u.a = s.a
  kernel : u.k = s.k
  divisor : u.kdiv = s.kdiv
  bias : u.kbias = s.kbias
  size : u.mem.size = s.mem.size
  sources : ∀ g ∈ sources i s, SameBytes g s.mem u.mem

section
variable {i : Instr} {s u : State} {m : Memory}

/-- The ordered checks read the registers, MEM_SIZE and the sources alone, so they end the same way. -/
theorem checks_withMem (hsize : m.size = s.mem.size) (h : ∀ g ∈ sources i s, SameBytes g s.mem m) :
    firstFailing (checks i { s with mem := m }) = firstFailing (checks i s) := by
  cases i with
  | norm ao fo => exact congrArg firstFailing (normChecks_congr hsize (h _ List.mem_cons_self))
  | gb7dec => exact gb7decChecks_congr hsize (h _ List.mem_cons_self)
  | gb7enc fo => exact congrArg firstFailing (gb7encChecks_congr hsize (h _ List.mem_cons_self))
  | render bl => exact congrArg firstFailing (renderChecks_congr hsize (h _ List.mem_cons_self))
  | lutbuild d7 => simp only [checks, lutbuildChecks, lutbuildDest, valid_congr hsize]
  | curve lr lg lb la => simp only [checks, curveChecks, countedSource, curveDest, pixelCount, valid_congr hsize]
  | curveg7 yl am inv cmb => simp only [checks, curveg7Checks, countedSource, curveg7Dest, pixelCount, valid_congr hsize]
  | hist ao => simp only [checks, histChecks, countedSource, histDest, pixelCount, valid_congr hsize]
  | histg7 => simp only [checks, histg7Checks, countedSource, histg7Dest, pixelCount, valid_congr hsize]
  | convrgb ksel | conva ksel =>
    simp only [checks, convChecks, convSource, convDest, convWidth, convHeight, valid_congr hsize]
  | rsnn | rsbl => simp only [checks, resampleChecks, resampleRange, resampleDest, resampleSizes, valid_congr hsize]

/-- Where the checks pass, the destination is the same; only where the command takes its size from memory is that a matter of
the sources. -/
theorem destination_withMem (h : ∀ g ∈ sources i s, SameBytes g s.mem m) (hpass : firstFailing (checks i s) = none) :
    destination i { s with mem := m } = destination i s := by
  cases i with
  | norm ao fo =>
    have hl := layer_congr (h _ List.mem_cons_self)
    simp only [destination, normDest, hl]
  | gb7enc fo =>
    have hl := layer_congr (h _ List.mem_cons_self)
    simp only [destination, gb7encDest, hl]
  | gb7dec =>
    have hlen := gb7dec_payload_le hpass
    obtain ⟨hw, hh, -⟩ := gb7Header_congr (h _ List.mem_cons_self) (by omega)
    simp only [destination, gb7decDest, hw, hh]
  | render bl => exact renderDest_congr (h _ List.mem_cons_self)
  | _ => rfl

/-- Where the checks pass, the bytes written are the same: each is made of bytes of the sources. -/
theorem output_withMem (hsize : m.size = s.mem.size) (h : ∀ g ∈ sources i s, SameBytes g s.mem m)
    (hpass : firstFailing (checks i s) = none) : output i { s with mem := m } = output i s := by
  cases i with
  | norm ao fo =>
    simp only [sources, List.forall_mem_cons] at h
    obtain ⟨hd, hl, -⟩ := h
    exact normBytes_congr hd hl ao fo
  | gb7enc fo =>
    simp only [sources, List.forall_mem_cons] at h
    obtain ⟨hd, hl, -⟩ := h
    exact gb7encFile_congr hd hl fo
  | gb7dec => exact gb7decBytes_congr (h _ List.mem_cons_self) (gb7dec_payload_le hpass)
  | lutbuild d7 => rfl
  | curve lr lg lb la =>
    simp only [sources, List.forall_mem_cons] at h
    obtain ⟨hsrc, hr, hg, hb, ha, -⟩ := h
    exact curveBytes_congr hsrc hr hg hb ha
  | curveg7 yl am inv cmb =>
    simp only [sources, List.forall_mem_cons] at h
    obtain ⟨hsrc, hy, -⟩ := h
    exact curveg7Bytes_congr hsrc hy am inv cmb
  | hist ao => exact histBytes_congr (h _ List.mem_cons_self) ao
  | histg7 => exact histg7Bytes_congr (h _ List.mem_cons_self)
  | convrgb ksel => exact convrgbBytes_congr (h _ List.mem_cons_self) (conv_size_pos hpass) ksel
  | conva ksel => exact convaBytes_congr (h _ List.mem_cons_self) (conv_size_pos hpass) ksel
  | rsnn => exact rsnnBytes_congr (h _ List.mem_cons_self) (resample_source_pos hpass)
  | rsbl => exact rsblBytes_congr (h _ List.mem_cons_self) (resample_source_pos hpass)
  | render bl =>
    obtain ⟨ht, hdata⟩ := List.forall_mem_cons.1 h
    exact renderBytes_congr hsize ht (List.forall_mem_map.1 hdata) bl

theorem results_withMem (hsize : m.size = s.mem.size) (h : ∀ g ∈ sources i s, SameBytes g s.mem m)
    (hpass : firstFailing (checks i s) = none) : results i { s with mem := m } = results i s := by
  cases i with
  | norm ao fo =>
    have hl := layer_congr (h _ List.mem_cons_self)
    simp only [results, normResults, hl]
  | gb7enc fo =>
    simp only [sources, List.forall_mem_cons] at h
    obtain ⟨hd, hl, -⟩ := h
    exact gb7encResults_congr hd hl fo
  | gb7dec =>
    have hlen := gb7dec_payload_le hpass
    exact gb7decResults_congr (h _ List.mem_cons_self) (by omega)
  | render bl => exact renderResults_congr hsize (h _ List.mem_cons_self)
  | _ => rfl

/-! No table of a command looks at the host's program or at its reply. -/

theorem checks_pending_reply (i : Instr) (s : State) (p : List HostEvent) (y : HostReply) :
    checks i { s with pending := p, reply := y } = checks i s := by
  cases i <;> rfl

theorem destination_pending_reply (i : Instr) (s : State) (p : List HostEvent) (y : HostReply) :
    destination i { s with pending := p, reply := y } = destination i s := by
  cases i <;> rfl

theorem output_pending_reply (i : Instr) (s : State) (p : List HostEvent) (y : HostReply) :
    output i { s with pending := p, reply := y } = output i s := by
  cases i <;> rfl

theorem results_pending_reply (i : Instr) (s : State) (p : List HostEvent) (y : HostReply) :
    results i { s with pending := p, reply := y } = results i s := by
  cases i <;> rfl

/-- A state with the inputs of `s` is `s` but for its memory and for what no command reads. -/
theorem SameInputs.eq_update (h : SameInputs i s u) :
    u = { { { s with mem := u.mem } with pending := u.pending, reply := u.reply } with status := u.status, r := u.r } := by
  rw [← h.operands, ← h.kernel, ← h.divisor, ← h.bias]

theorem SameInputs.firstFailing_eq (h : SameInputs i s u) : firstFailing (checks i u) = firstFailing (checks i s) := by
  rw [h.eq_update, checks_status_results, checks_pending_reply]
  exact checks_withMem h.size h.sources

theorem SameInputs.destination_eq (h : SameInputs i s u) (hpass : firstFailing (checks i s) = none) :
    destination i u = destination i s := by
  rw [h.eq_update, destination_status_results, destination_pending_reply]
  exact destination_withMem h.sources hpass

theorem SameInputs.output_eq (h : SameInputs i s u) (hpass : firstFailing (checks i s) = none) :
    output i u = output i s := by
  rw [h.eq_update, output_status_results, output_pending_reply]
  exact output_withMem h.size h.sources hpass

theorem SameInputs.getElem_results_eq (h : SameInputs i s u) (hpass : firstFailing (checks i s) = none) {n : Nat}
    (hn : n < 6) (hcount : n < resultCount i) : (results i u)[n] = (results i s)[n] := by
  rw [h.eq_update, results_status_results i _ _ _ hn hcount, results_pending_reply]
  exact congrArg (·[n]) (results_withMem h.size h.sources hpass)

/-! ## A command issued again -/

/-- A command leaves the registers it reads and the bytes of its sources as they were (R28, R32, R69). -/
theorem sameInputs_exec {t : State} (ht : exec i s = .next t) (hpass : firstFailing (checks i s) = none) :
    SameInputs i s t :=
  have hframe := frame_exec ht
  { operands := hframe.operands
    kernel := hframe.kernel
    divisor := hframe.divisor
    bias := hframe.bias
    size := hframe.size
    sources := fun _ hg _ hx => hframe.memory _ (has_eq_false_of_not_meets (destination_meets_sources hpass hg) hx) }

/-- With the same inputs and the results of the first run in its registers, the second run leaves those results. -/
theorem SameInputs.results_eq (h : SameInputs i s u) (hpass : firstFailing (checks i s) = none)
    (hr : u.r = results i s) : results i u = results i s := by
  ext n hn
  by_cases hcount : n < resultCount i
  · rw [h.getElem_results_eq hpass hn hcount]
  · rw [results_kept i u hn (Nat.not_lt.1 hcount), hr]
end

/-! ## The statements -/

/-- Settles O20: the checks end the same way, and where they pass the same bytes are stored at the same place. -/
theorem commandsAreFunctionsOfTheirInputs : Obligations.CommandsAreFunctionsOfTheirInputs := by
  intro i s u t ht ha hk hdiv hbias hsize hsources
  have hin : SameInputs i s u := ⟨ha, hk, hdiv, hbias, hsize, hsources⟩
  have hsame := hin.firstFailing_eq
  obtain ⟨e, hfail, rfl⟩ | ⟨hpass, rfl⟩ := exec_cases ht
  · exact ⟨_, exec_of_failing (hsame.trans hfail), by simp, fun hdone => absurd hdone (statusWord_ne_done e)⟩
  · refine ⟨_, exec_of_checks (firstFailing_eq_none.1 (hsame.trans hpass)), by simp,
      fun _ => ⟨fun x hx => ?_, fun n hn hcount => ?_⟩⟩
    · rw [ended_mem, ended_mem, wrote_mem, wrote_mem, hin.destination_eq hpass, hin.output_eq hpass]
      refine read_store_of_has ?_
      rwa [length_output]
    · exact hin.getElem_results_eq hpass hn hcount

/-- Settles O21: a failing check fails again, and a command that ran finds its inputs intact and stores the same bytes again. -/
theorem commandTwiceIsCommandOnce : Obligations.CommandTwiceIsCommandOnce := by
  intro i s t ht
  obtain ⟨e, hfail, rfl⟩ | ⟨hpass, rfl⟩ := exec_cases ht
  · exact exec_of_failing ((congrArg firstFailing (checks_status_results i s _ s.r)).trans hfail)
  · have hin := sameInputs_exec ht hpass
    rw [exec_of_checks (firstFailing_eq_none.1 (hin.firstFailing_eq.trans hpass)), hin.destination_eq hpass,
      hin.output_eq hpass, hin.results_eq hpass rfl]
    simp only [State.wrote, State.ended, store_store]

end Sys2Proof.Machine
end

section
/-! Command words (spec/30_encoding.md): which words decode, to which commands, and what a CMD write of any other word does. -/

namespace Sys2Proof.Machine

/-! ## Bits and masks of a command word (R80, R83) -/

/-- The opcode field is what the mask of bits 7:0 leaves of the word (R80). -/
theorem ofNat_opcode (w : Word) : BitVec.ofNat 32 (opcode w) = w &&& 0xFF#32 := by
  apply BitVec.eq_of_toNat_eq
  rw [BitVec.toNat_and, BitVec.toNat_ofNat, opcode, show (0xFF#32 : Word).toNat = 2 ^ 8 - 1 from rfl,
    Nat.and_two_pow_sub_one_eq_mod]
  omega

/-- The low eight bits are those of the mask `0xFF`. -/
theorem getLsbD_opcodeMask (n : Nat) : (0xFF#32 : Word).getLsbD n = decide (n < 8) := by
  rw [← BitVec.testBit_toNat, show (0xFF#32 : Word).toNat = 2 ^ 8 - 1 from rfl, Nat.testBit_two_pow_sub_one]

/-- A word without bits outside a mask is its own part under the mask. -/
theorem and_eq_self_of_and_not_eq_zero {w m : Word} (h : w &&& ~~~m = 0#32) : w &&& m = w := by
  calc w &&& m = (w &&& m) ||| (w &&& ~~~m) := by rw [h, BitVec.or_zero]
    _ = w := by ext n; simp [← Bool.and_or_distrib_left]

/-- A word has no bit outside a mask when each of its bits is one of the mask. -/
theorem and_not_eq_zero_iff {w m : Word} : w &&& ~~~m = 0#32 ↔ ∀ n, w.getLsbD n = true → m.getLsbD n = true := by
  constructor
  · intro h n hn
    rw [← and_eq_self_of_and_not_eq_zero h, BitVec.getLsbD_and, Bool.and_eq_true] at hn
    exact hn.2
  · intro h
    ext n hn
    have := h n
    simp_all

theorem flagBit_eq (n : Nat) (b : Bool) : flagBit n b = if b then BitVec.twoPow 32 n else 0#32 := by
  have hbit : BitVec.ofNat 32 (2 ^ n) = BitVec.twoPow 32 n :=
    BitVec.eq_of_toNat_eq (by rw [BitVec.toNat_ofNat, BitVec.toNat_twoPow])
  rw [flagBit, hbit]

@[simp] theorem getElem_flagBit (n : Nat) (b : Bool) {m : Nat} (hm : m < 32) :
    (flagBit n b)[m] = (decide (m = n) && b) := by
  rw [flagBit_eq]
  cases b <;> simp [BitVec.getElem_twoPow]

/-- The flag that stands in bit `n` of a word, put back in its place. -/
theorem flagBit_getLsbD (w : Word) (n : Nat) : flagBit n (w.getLsbD n) = w &&& BitVec.twoPow 32 n := by
  rw [flagBit_eq, BitVec.and_twoPow]

/-- The mask of the flag bits of a list. -/
def flagMask (l : List Nat) : Word := l.foldr (fun n m => BitVec.twoPow 32 n ||| m) 0#32

theorem getLsbD_flagMask (l : List Nat) (n : Nat) : (flagMask l).getLsbD n = true ↔ n < 32 ∧ n ∈ l := by
  induction l with
  | nil => simp [flagMask]
  | cons k l ih =>
    rw [flagMask, List.foldr_cons, BitVec.getLsbD_or, BitVec.getLsbD_twoPow, Bool.or_eq_true, ← flagMask, ih]
    simp only [Bool.and_eq_true, decide_eq_true_iff, List.mem_cons]
    grind

/-- A word inside the mask of a list has no bit outside the list. -/
theorem getElem_eq_false_of_and_flagMask {w : Word} {l : List Nat} (h : w &&& flagMask l = w) {m : Nat} (hm : m ∉ l)
    (hlt : m < 32) : w[m] = false := by
  rw [← BitVec.getLsbD_eq_getElem, ← h, BitVec.getLsbD_and, Bool.and_eq_false_iff]
  exact .inr (Bool.eq_false_iff.2 fun hbit => hm ((getLsbD_flagMask l m).1 hbit).2)

/-! ## The rows of the command table (R82, R83) -/

/-- The flag bits a row defines are those R83 lists for its opcode. -/
theorem commandRow_flags {w flags : Word} {n : Nat} {i : Instr} (h : commandRow w n = some (flags, i)) :
    flags = flagMask (definedFlagBits n) := by
  unfold commandRow at h
  split at h
  case h_14 => exact nomatch h
  all_goals
    obtain ⟨rfl, -⟩ := Prod.mk.inj (Option.some.inj h)
    rfl

/-- A row for each of the thirteen opcodes, and no other (R82, R86). -/
theorem commandRow_eq_none_iff (w : Word) (n : Nat) : commandRow w n = none ↔ n = 0 ∨ 14 ≤ n := by
  constructor
  · intro h
    by_contra! hn
    obtain ⟨hne, hlt⟩ := hn
    have hpos := Nat.pos_of_ne_zero hne
    interval_cases n <;> exact Option.some_ne_none _ h
  · rintro (rfl | h)
    · rfl
    · obtain ⟨k, rfl⟩ := Nat.exists_eq_add_of_le' h
      rfl

/-- The flag bits of every command lie in bits 13:8 (R83, R87). -/
theorem definedFlagBits_range {n opc : Nat} (h : n ∈ definedFlagBits opc) : 8 ≤ n ∧ n < 14 := by
  unfold definedFlagBits at h
  split at h
  all_goals
    simp only [List.mem_cons, List.not_mem_nil, or_false] at h <;> omega

/-- The two bits of AM keep their places. -/
theorem bits_alphaModeField (w : Word) : (alphaModeField w).bits = w &&& 0x600#32 := by
  have h : w &&& 0x600#32 = flagBit 10 (w.getLsbD 10) ||| flagBit 9 (w.getLsbD 9) := by
    rw [flagBit_getLsbD, flagBit_getLsbD, ← BitVec.and_or_distrib_left]
    rfl
  rw [h, alphaModeField]
  cases w.getLsbD 10 <;> cases w.getLsbD 9 <;> rfl

/-- The two bits of CMB keep their places. -/
theorem bits_combineField (w : Word) : (combineField w).bits = w &&& 0x3000#32 := by
  have h : w &&& 0x3000#32 = flagBit 13 (w.getLsbD 13) ||| flagBit 12 (w.getLsbD 12) := by
    rw [flagBit_getLsbD, flagBit_getLsbD, ← BitVec.and_or_distrib_left]
    rfl
  rw [h, combineField]
  cases w.getLsbD 13 <;> cases w.getLsbD 12 <;> rfl

/-- The three bits of KSEL keep their places. -/
theorem bits_kernelField (w : Word) : (kernelField w).bits = w &&& 0x700#32 := by
  have h : w &&& 0x700#32 = flagBit 10 (w.getLsbD 10) ||| flagBit 9 (w.getLsbD 9) ||| flagBit 8 (w.getLsbD 8) := by
    rw [flagBit_getLsbD, flagBit_getLsbD, flagBit_getLsbD, ← BitVec.and_or_distrib_left, ← BitVec.and_or_distrib_left]
    rfl
  rw [h, kernelField]
  cases w.getLsbD 10 <;> cases w.getLsbD 9 <;> cases w.getLsbD 8 <;> rfl

/-- The command of a row has as its word the row's opcode and the flag bits of the word it was read from (R93). -/
theorem encode_of_commandRow {w flags : Word} {n : Nat} {i : Instr} (h : commandRow w n = some (flags, i)) :
    encode i = BitVec.ofNat 32 n ||| (w &&& flags) := by
  unfold commandRow at h
  split at h
  case h_14 => exact nomatch h
  all_goals
    obtain ⟨rfl, rfl⟩ := Prod.mk.inj (Option.some.inj h)
    simp only [encode, flagBit_getLsbD, bits_alphaModeField, bits_combineField, bits_kernelField, BitVec.or_assoc,
      ← BitVec.and_or_distrib_left, BitVec.and_zero, BitVec.or_zero] <;> rfl

/-! ## The row of a command's own word (R95) -/

/-- AM's value lies in bits 10:9. -/
@[simp] theorem getElem_alphaMode_bits {m : Nat} (h : m ∉ [9, 10]) (am : AlphaMode) (hm : m < 32) : am.bits[m] = false :=
  getElem_eq_false_of_and_flagMask (by cases am <;> rfl) h hm

/-- CMB's value lies in bits 13:12. -/
@[simp] theorem getElem_combine_bits {m : Nat} (h : m ∉ [12, 13]) (cmb : Combine) (hm : m < 32) : cmb.bits[m] = false :=
  getElem_eq_false_of_and_flagMask (by cases cmb <;> rfl) h hm

/-- The field AM reads bits 10:9 and no other. -/
theorem alphaModeField_eq {w : Word} {am : AlphaMode} (h10 : w.getLsbD 10 = am.bits.getLsbD 10)
    (h9 : w.getLsbD 9 = am.bits.getLsbD 9) : alphaModeField w = am := by
  rw [alphaModeField, h10, h9]
  cases am <;> rfl

/-- The field CMB reads bits 13:12 and no other. -/
theorem combineField_eq {w : Word} {cmb : Combine} (h13 : w.getLsbD 13 = cmb.bits.getLsbD 13)
    (h12 : w.getLsbD 12 = cmb.bits.getLsbD 12) : combineField w = cmb := by
  rw [combineField, h13, h12]
  cases cmb <;> rfl

/-- The field KSEL reads bits 10:8 and no other. -/
theorem kernelField_eq {w : Word} {ksel : KernelSel} (h10 : w.getLsbD 10 = ksel.bits.getLsbD 10)
    (h9 : w.getLsbD 9 = ksel.bits.getLsbD 9) (h8 : w.getLsbD 8 = ksel.bits.getLsbD 8) : kernelField w = ksel := by
  rw [kernelField, h10, h9, h8]
  cases ksel <;> rfl

/-- The word of a command names the command in its row: every flag stands in bits of its own. -/
theorem commandRow_encode (i : Instr) :
    commandRow (encode i) (Laws.EncodeRow.pattern i).toNat = some (~~~Laws.EncodeRow.mask i, i) := by
  cases i with
  | norm ao fo | gb7enc fo | lutbuild d7 | curve lr lg lb la | hist ao | render bl =>
    simp [commandRow, encode, Laws.EncodeRow.pattern, Laws.EncodeRow.mask]
  | gb7dec | histg7 | rsnn | rsbl => rfl
  | curveg7 yl am inv cmb =>
    have ham : alphaModeField (encode (.curveg7 yl am inv cmb)) = am := by
      apply alphaModeField_eq <;> simp [encode]
    have hcmb : combineField (encode (.curveg7 yl am inv cmb)) = cmb := by
      apply combineField_eq <;> simp [encode]
    simp only [commandRow, Laws.EncodeRow.pattern, Laws.EncodeRow.mask, ham, hcmb]
    simp [encode]
  | convrgb ksel | conva ksel =>
    simp only [commandRow, Laws.EncodeRow.pattern, Laws.EncodeRow.mask]
    rw [kernelField_eq (ksel := ksel)] <;> simp [encode]

/-- Every command's word selects the command's row of the opcode table. -/
theorem encode_and_mask (i : Instr) : encode i &&& Laws.EncodeRow.mask i = Laws.EncodeRow.pattern i := by
  cases i with
  | norm ao fo => exact Laws.EncodeRow.norm ao fo
  | gb7dec => exact Laws.EncodeRow.gb7dec
  | gb7enc fo => exact Laws.EncodeRow.gb7enc fo
  | lutbuild d7 => exact Laws.EncodeRow.lutbuild d7
  | curve lr lg lb la => exact Laws.EncodeRow.curve lr lg lb la
  | curveg7 yl am inv cmb => exact Laws.EncodeRow.curveg7 yl am inv cmb
  | hist ao => exact Laws.EncodeRow.hist ao
  | histg7 => exact Laws.EncodeRow.histg7
  | convrgb ksel => exact Laws.EncodeRow.convrgb ksel
  | conva ksel => exact Laws.EncodeRow.conva ksel
  | rsnn => exact Laws.EncodeRow.rsnn
  | rsbl => exact Laws.EncodeRow.rsbl
  | render bl => exact Laws.EncodeRow.render bl

/-- A row's mask holds all of the opcode field (R95). -/
theorem mask_and_opcodeMask (i : Instr) : Laws.EncodeRow.mask i &&& 0xFF#32 = 0xFF#32 := by
  cases i <;> simp [Laws.EncodeRow.mask]

/-- A row's match is an opcode alone (R95). -/
theorem pattern_and_opcodeMask (i : Instr) : Laws.EncodeRow.pattern i &&& 0xFF#32 = Laws.EncodeRow.pattern i := by
  cases i <;> simp [Laws.EncodeRow.pattern]

/-- The opcode field of a command's word holds the row's opcode. -/
theorem opcode_encode (i : Instr) : opcode (encode i) = (Laws.EncodeRow.pattern i).toNat := by
  have hfield : encode i &&& 0xFF#32 = Laws.EncodeRow.pattern i := by
    rw [← mask_and_opcodeMask i, ← BitVec.and_assoc, encode_and_mask, pattern_and_opcodeMask]
  rw [← hfield, ← ofNat_opcode, BitVec.toNat_ofNat, opcode]
  omega

/-- A command's word has no 1 in an undefined bit. -/
theorem encode_undefined_eq_zero (i : Instr) : encode i &&& ~~~(~~~Laws.EncodeRow.mask i ||| 0xFF#32) = 0#32 := by
  rw [BitVec.not_or, BitVec.not_not, ← BitVec.and_assoc, encode_and_mask, ← pattern_and_opcodeMask, BitVec.and_assoc,
    BitVec.and_not_self]
  exact BitVec.and_zero

/-! ## Decoding, check by check (R81) -/

theorem decode_of_no_row {w : Word} (h : commandRow w (opcode w) = none) : decode w = .error .unassignedOpcode := by
  simp [decode, h]

theorem decode_of_row {w flags : Word} {i : Instr} (h : commandRow w (opcode w) = some (flags, i)) :
    decode w = if w &&& ~~~(flags ||| 0xFF#32) = 0#32 then if i.wf then .ok i else .error .reservedField
      else .error .undefinedFlag := by
  simp [decode, h]

/-- A word that decodes has passed all three checks of R81. -/
theorem decode_eq_ok_iff {w : Word} {i : Instr} :
    decode w = .ok i ↔ ∃ flags, commandRow w (opcode w) = some (flags, i) ∧ w &&& ~~~(flags ||| 0xFF#32) = 0#32
      ∧ i.wf = true := by
  constructor
  · intro h
    cases hrow : commandRow w (opcode w) with
    | none => exact nomatch (decode_of_no_row hrow).symm.trans h
    | some row =>
      rw [decode_of_row hrow] at h
      split_ifs at h with hflags hwf
      obtain rfl := Except.ok.inj h
      exact ⟨_, rfl, hflags, hwf⟩
  · rintro ⟨flags, hrow, hflags, hwf⟩
    rw [decode_of_row hrow, if_pos hflags, if_pos hwf]

/-- A word has no 1 in an undefined bit when its flag bits are among those R83 lists for its opcode (R87). -/
theorem undefined_eq_zero_iff {w flags : Word} {i : Instr} (h : commandRow w (opcode w) = some (flags, i)) :
    w &&& ~~~(flags ||| 0xFF#32) = 0#32
      ↔ ∀ n, 8 ≤ n → w.getLsbD n = true → n ∈ definedFlagBits (w.toNat % 256) := by
  rw [commandRow_flags h, and_not_eq_zero_iff, opcode]
  refine forall_congr' fun n => ?_
  rw [BitVec.getLsbD_or, Bool.or_eq_true, getLsbD_flagMask, getLsbD_opcodeMask, decide_eq_true_iff]
  have hlt := BitVec.lt_of_getLsbD (x := w) (i := n)
  grind

/-- A legal command's word decodes to the command. -/
theorem decode_encode {i : Instr} (h : i.wf = true) : decode (encode i) = .ok i := by
  refine decode_eq_ok_iff.2 ⟨_, ?_, encode_undefined_eq_zero i, h⟩
  rw [opcode_encode, commandRow_encode]

/-- A word is the word of the command it decodes to: the checks leave it no bit but its opcode and the row's flags. -/
theorem encode_of_decode {w : Word} {i : Instr} (h : decode w = .ok i) : encode i = w := by
  obtain ⟨flags, hrow, hflags, -⟩ := decode_eq_ok_iff.1 h
  rw [encode_of_commandRow hrow, ofNat_opcode, ← BitVec.and_or_distrib_left, BitVec.or_comm,
    and_eq_self_of_and_not_eq_zero hflags]

/-- The last check of R81 fails for a command that is not legal, once the word has no undefined flag bit (R88). -/
theorem decode_of_reserved {w flags : Word} {i : Instr} (hrow : commandRow w (opcode w) = some (flags, i))
    (hflags : ∀ n, 8 ≤ n → w.getLsbD n = true → n ∈ definedFlagBits (w.toNat % 256)) (hwf : i.wf = false) :
    decode w = .error .reservedField := by
  rw [decode_of_row hrow, if_pos ((undefined_eq_zero_iff hrow).2 hflags), if_neg (by simp [hwf])]

/-! ## A CMD write of an illegal word (R81, R247) -/

/-- A CMD write of a word that does not decode leaves the cause in STATUS and nothing else (R89, R247). -/
theorem step_of_decode_error {s : State} {w : Word} {rest : List HostEvent} {c : IllegalCause}
    (hp : s.pending = .regWrite 28 w :: rest) (h : decode w = .error c) :
    step s = .next { taken rest s with status := (CoreError.illegalCommand c).statusWord } := by
  rw [step_of_pending hp, hostEvent, hostRegWrite_cmd, command, h]
  rfl

/-! ## The statements -/

/-- Settles O1: encoding a decoded word gives it back, and a legal command's word decodes to it. -/
theorem decodeAcceptsExactlyTheEncodings : Obligations.DecodeAcceptsExactlyTheEncodings := by
  intro w i
  constructor
  · intro h
    obtain ⟨_, -, -, hwf⟩ := decode_eq_ok_iff.1 h
    exact ⟨hwf, encode_of_decode h⟩
  · rintro ⟨hwf, rfl⟩
    exact decode_encode hwf

/-- Settles O3: an unassigned opcode has no row. -/
theorem unassignedOpcodeIsIllegal : Obligations.UnassignedOpcodeIsIllegal := by
  intro s w rest hp hopc
  exact step_of_decode_error hp (decode_of_no_row ((commandRow_eq_none_iff w _).2 hopc))

/-- Settles O4: the opcode has a row, and the bit is outside its flags. -/
theorem undefinedFlagBitIsIllegal : Obligations.UndefinedFlagBitIsIllegal := by
  intro s w rest n hp hpos hle hn hbit hundef
  have houtside : n ∉ definedFlagBits (w.toNat % 256) := by
    obtain h | h := hundef
    · exact fun hmem => absurd (definedFlagBits_range hmem).2 (Nat.not_lt.2 h)
    · exact h
  cases hrow : commandRow w (opcode w) with
  | none =>
    have := (commandRow_eq_none_iff w _).1 hrow
    rw [opcode] at this
    omega
  | some row =>
    apply step_of_decode_error hp (c := .undefinedFlag)
    rw [decode_of_row hrow, if_neg]
    exact fun h => houtside ((undefined_eq_zero_iff hrow).1 h n hn hbit)

/-- Settles O5: the field that stands in the word is the reserved value. -/
theorem reservedFieldValueIsIllegal : Obligations.ReservedFieldValueIsIllegal := by
  intro s w rest hp hflags hres
  apply step_of_decode_error hp (c := .reservedField)
  obtain ⟨hopc, h12, h13⟩ | ⟨hopc, h8, h9, h10⟩ := hres
  · have hcmb : combineField w = .reserved3 := combineField_eq h13 h12
    refine decode_of_reserved (by rw [opcode, hopc, commandRow]) hflags ?_
    rw [hcmb]
    rfl
  · have hksel : kernelField w = .reserved7 := kernelField_eq h10 h9 h8
    obtain hopc | hopc := hopc
    all_goals
      refine decode_of_reserved (by rw [opcode, hopc, commandRow]) hflags ?_
      rw [hksel]
      rfl

/-- Settles O2: each word is the encoding of its command, which is legal. -/
theorem specWordsDecode : Obligations.SpecWordsDecode :=
  ⟨decode_encode (i := .norm false false) rfl, decode_encode (i := .gb7enc true) rfl,
    decode_encode (i := .curve true true true false) rfl, decode_encode (i := .curveg7 true .threshold true .or) rfl,
    decode_encode (i := .convrgb .sharpen) rfl, decode_encode (i := .rsbl) rfl, decode_encode (i := .render true) rfl⟩

end Sys2Proof.Machine
end

section
/-! The RGBA Normalizer (spec/40_normalizer.md R105, R106, R112, R113): the STATUS of a command's ordered checks, and NORM's
checks and pixels in the terms of its statements. -/

namespace Sys2Proof.Machine

/-! ## The STATUS of an ordered list of checks (R37, R247, R250) -/

/-- The STATUS a command with these ordered checks ends with: that of its first failing check, or of a success. -/
def endStatus (l : List (Bool × CoreError)) : Word := (firstFailing l).elim doneStatus CoreError.statusWord

@[simp] theorem endStatus_nil : endStatus [] = 0x00010000#32 := rfl

/-- The checks decide the STATUS in their order. -/
@[simp] theorem endStatus_cons (b : Bool) (e : CoreError) (l : List (Bool × CoreError)) :
    endStatus ((b, e) :: l) = if b = false then e.statusWord else endStatus l := by
  cases b <;> rfl

theorem commandState_status (l : List (Bool × CoreError)) (f : State → State) (s : State) :
    (commandState l f s).status = endStatus l := by
  unfold endStatus
  obtain ⟨e, he, hs⟩ | ⟨hnone, hs⟩ := commandState_cases l f s
  · rw [hs, he]; rfl
  · rw [hs, hnone]; rfl

/-- Every command ends with the STATUS of its checks. -/
theorem exec_endStatus (i : Instr) (s : State) : ∃ t, exec i s = .next t ∧ t.status = endStatus (checks i s) :=
  ⟨_, exec_eq i s, commandState_status _ _ _⟩

/-! ## Layers with a size (R106) -/

theorem positive_iff (l : Layer) : l.positive = true ↔ 0 < l.width ∧ 0 < l.height := by
  simp [Layer.positive]

theorem positive_eq_false_iff (l : Layer) : l.positive = false ↔ l.width ≤ 0 ∨ l.height ≤ 0 := by
  rw [← Bool.not_eq_true, positive_iff]
  omega

/-! ## NORM -/

/-- The checks of NORM all pass exactly where its layer is legal and its ranges are valid and apart (R106). -/
theorem normChecks_pass_iff (s : State) :
    (∀ c ∈ normChecks s, c.1 = true) ↔
      let l := s.mem.layer (u32 s.a[0])
      (descriptorRange s).valid s.mem = true ∧ l.kind ≠ none ∧ (0 < l.width ∧ 0 < l.height)
        ∧ l.dataRange.valid s.mem = true ∧ (normDest s).valid s.mem = true
        ∧ (normDest s).meets (descriptorRange s) = false ∧ (normDest s).meets l.dataRange = false := by
  simp [normChecks, positive_iff, Option.isSome_iff_ne_none]

/-- The pixel NORM writes, channel by channel: the canonical pixel, or its alpha as an opaque grey (R112, R113). -/
theorem normOutput_eq (ao fo : Bool) (s : State) (i : Nat) :
    normOutput ao fo s i =
      let p := normPixel s.mem (s.mem.layer (u32 s.a[0])) fo i
      if ao then { r := p.a, g := p.a, b := p.a, a := 255 } else p := rfl

/-! ## The statements -/

/-- Settles O27: the STATUS of NORM's list of checks, each check's failure spelled out. -/
theorem normReportsFirstFailingCheck : Obligations.NormReportsFirstFailingCheck := by
  intro ao fo s l
  obtain ⟨t, ht, hstatus⟩ := exec_endStatus (.norm ao fo) s
  refine ⟨t, ht, hstatus.trans ?_⟩
  simp only [checks, normChecks, endStatus_cons, endStatus_nil, positive_eq_false_iff, Option.isSome_eq_false_iff,
    Option.isNone_iff_eq_none, Bool.and_eq_false_iff, Bool.not_eq_false']
  rfl

/-- Settles O26: every check passes, and pixel `i` of the stored buffer is the one it was made of. -/
theorem normWritesCanonicalPixels : Obligations.NormWritesCanonicalPixels := by
  intro ao fo s l hdesc hkind hwidth hheight hdata hdest hmeetsDesc hmeetsData
  have hchecks : ∀ c ∈ checks (.norm ao fo) s, c.1 = true :=
    (normChecks_pass_iff s).2 ⟨hdesc, hkind, ⟨hwidth, hheight⟩, hdata, hdest, hmeetsDesc, hmeetsData⟩
  refine ⟨_, exec_of_checks hchecks, frame_wrote (.norm ao fo) s _ _, rfl, rfl, rfl,
    fun n h hn => results_kept (.norm ao fo) s h hn, fun i hi => ?_⟩
  exact (rgba_store_pixelBytes s.mem (u32 s.a[1]) l.pixels i (normOutput ao fo s) hi).trans (normOutput_eq ao fo s i)

end Sys2Proof.Machine
end

section
/-! The GB7 Codec (spec/41_gb7_codec.md R120 to R139): what a GB7 file in memory holds, the byte GB7ENC makes of a pixel in
integers, and the two commands' checks in the terms of their statements. -/

namespace Sys2Proof.Machine

/-! ## Numbers and bytes in memory (R61) -/

/-- A 16-bit number in memory. -/
theorem readNum_two (m : Memory) (x : Nat) : m.readNum x 2 = (m.read x).toNat * 256 + (m.read (x + 1)).toNat := by
  simp [Memory.readNum]

/-- A number inside a stored buffer reads back. -/
theorem readNum_store_of_drop (m : Memory) (base : Nat) {bs : List Byte} {k n v : Nat} (hv : v < 256 ^ n)
    (h : numBytes n v <+: bs.drop k) : (m.store base bs).readNum (base + k) n = v := by
  rw [readNum_numBytes n v, Nat.mod_eq_of_lt hv]
  intro i hi
  have hdigit : bs[k + i]? = some (BitVec.ofNat 8 (v / 256 ^ (n - 1 - i))) := by
    obtain ⟨post, hpost⟩ := h
    rw [← List.getElem?_drop, ← hpost, List.getElem?_append_left (by simpa using hi)]
    simp [numBytes, hi]
  rw [Nat.add_assoc, read_store, if_pos (Nat.le_add_right _ _), Nat.add_sub_cancel_left, hdigit]
  rfl

/-- A number of 0 to `2^32 - 1` survives as a register value. -/
theorem u32_wordOf {n : Nat} (h : n < 2 ^ 32) : u32 (wordOf (n : Int)) = n := by
  rw [wordOf, BitVec.ofInt_natCast]
  exact (BitVec.toNat_ofNat n 32).trans (Nat.mod_eq_of_lt h)

/-- Bit 0 of a byte as a register value is the byte's parity. -/
theorem u32_lowBit (b : Byte) : u32 (if b.getLsbD 0 then 1 else 0) = b.toNat % 2 := by
  have hbit : b.getLsbD 0 = true ↔ b.toNat % 2 = 1 := by simpa using getLsbD_iff b 0
  by_cases h : b.getLsbD 0 = true
  · rw [if_pos h, hbit.1 h]
    rfl
  · rw [if_neg h, Nat.mod_two_ne_one.1 (mt hbit.2 h)]
    rfl

/-! ## A GB7 file in memory (R120, R136) -/

/-- The memory holds at `base` a GB7 file: the twelve header bytes for a `w` by `h` image with the flag `mask`, and the packed
pixel bytes `px`. -/
structure HoldsGb7File (m : Memory) (base : Nat) (mask : Bool) (w h : Nat) (px : List Byte) : Prop where
  magic : m.readNum base 4 = gb7Magic
  version : m.read (base + 4) = 1
  flags : m.read (base + 5) = if mask then 1 else 0
  width : m.readNum (base + 6) 2 = w
  height : m.readNum (base + 8) 2 = h
  reserved : m.readNum (base + 10) 2 = 0
  pixels : ∀ (i : Nat) (hi : i < px.length), m.read (base + 12 + i) = px[i]

/-- A stored header with its pixel bytes is a GB7 file. -/
theorem holdsGb7File_store (m : Memory) (base : Nat) (mask : Bool) {w h : Nat} (px : List Byte) (hw : w < 65536)
    (hh : h < 65536) : HoldsGb7File (m.store base (gb7Header mask w h ++ px)) base mask w h px := by
  constructor
  case magic => exact readNum_store_of_drop m base (k := 0) (by decide) ⟨_, rfl⟩
  case version => exact read_store_mem (i := 4) (by simp; omega)
  case flags => exact read_store_mem (i := 5) (by simp; omega)
  case width => exact readNum_store_of_drop m base hw ⟨_, rfl⟩
  case height => exact readNum_store_of_drop m base hh ⟨_, rfl⟩
  case reserved => exact readNum_store_of_drop m base (by decide) ⟨_, rfl⟩
  case pixels =>
    intro i hi
    rw [Nat.add_assoc, read_store_mem (by simp; omega)]
    simp

/-! ## The GB7 byte of a pixel (R132 to R134) -/

/-- The BT.709 luma in integers (R132). -/
theorem bt709Luma_eq (p : Pixel) :
    bt709Luma p = ((2126 * p.r.toNat + 7152 * p.g.toNat + 722 * p.b.toNat + 5000) / 10000 : Nat) := by
  have hrnd := rnd_div (2126 * p.r.toNat + 7152 * p.g.toNat + 722 * p.b.toNat : Nat) 10000 (by decide)
  unfold bt709Luma
  rw [show ((10000 : Int) : Rat) = 10000 by norm_num, Int.cast_natCast] at hrnd
  rw [hrnd]
  omega

/-- The quantization of an 8-bit luma in integers; the clamp has nothing to do (R133). -/
theorem quantizeLuma_eq {v : Nat} (hv : v ≤ 255) : quantizeLuma v = ((254 * v + 255) / 510 : Nat) := by
  have hrnd := rnd_div (v * 127 : Nat) 255 (by decide)
  push_cast at hrnd
  unfold quantizeLuma
  rw [Int.cast_natCast, hrnd, clamp_of_mem (by omega) (by omega)]
  omega

/-- The GB7 byte of a pixel in integers (R130, R132 to R134). -/
theorem toNat_encodePixel (p : Pixel) :
    (encodePixel p).toNat = (if 128 ≤ p.a.toNat then 128 else 0)
      + (254 * ((2126 * p.r.toNat + 7152 * p.g.toNat + 722 * p.b.toNat + 5000) / 10000) + 255) / 510 := by
  have hr : p.r.toNat < 256 := p.r.isLt
  have hg : p.g.toNat < 256 := p.g.isLt
  have hb : p.b.toNat < 256 := p.b.isLt
  have hluma : (2126 * p.r.toNat + 7152 * p.g.toNat + 722 * p.b.toNat + 5000) / 10000 ≤ 255 := by omega
  have hq := quantizeLuma_eq hluma
  unfold encodePixel encodedMask
  rw [bt709Luma_eq, hq]
  simp only [decide_eq_true_eq]
  have hbyte := toNat_byteOf (v := (if 128 ≤ p.a.toNat then 128 else 0)
    + ((254 * ((2126 * p.r.toNat + 7152 * p.g.toNat + 722 * p.b.toNat + 5000) / 10000) + 255) / 510 : Nat))
  split_ifs at hbyte ⊢ <;> omega

/-- Widening a 7-bit luma to grey and quantizing it again gives it back (R109, R133). -/
theorem quantized_grey (v : Nat) : (254 * (v * 255 / 127) + 255) / 510 = v := by omega

/-- The luma of a grey pixel is its grey, since the weights sum to 10000 (R132). -/
theorem luma_grey (v : Nat) : (2126 * v + 7152 * v + 722 * v + 5000) / 10000 = v := by omega

/-- Encoding the canonical pixel of a GB7 byte that carries a mask gives the byte back (R139). -/
theorem encodePixel_gb7Pixel (b : Byte) : encodePixel (gb7Pixel true b) = b := by
  have hb : b.toNat < 256 := b.isLt
  have hg : (gb7Pixel true b).g = (gb7Pixel true b).r := rfl
  have hbl : (gb7Pixel true b).b = (gb7Pixel true b).r := rfl
  have ha : 128 ≤ (gb7Pixel true b).a.toNat ↔ 128 ≤ b.toNat := by
    rw [gb7Pixel_a]
    by_cases hmask : b.toNat < 128
    · simp [hmask]
    · simp [hmask, Nat.not_lt.1 hmask]
  apply BitVec.eq_of_toNat_eq
  rw [toNat_encodePixel, hg, hbl, luma_grey, toNat_gb7Pixel_r, quantized_grey]
  simp only [ha]
  split_ifs <;> omega

/-- A pixel is encoded without its mask bit where its alpha is below 128, and the file has a mask where a pixel is (R134, R135). -/
theorem hasMask_iff (n : Nat) (f : Nat → Pixel) : hasMask n f = true ↔ ∃ i < n, (f i).a.toNat < 128 := by
  simp [hasMask, encodedMask]

/-! ## GB7DEC (R122, R123) -/

/-- The checks of GB7DEC all pass exactly where its file is a whole GB7 file of version 1 and its ranges are valid and apart
(R123). -/
theorem gb7decChecks_pass_iff (s : State) :
    (∀ c ∈ gb7decChecks s, c.1 = true) ↔
      (gb7File s).valid s.mem = true ∧ 12 ≤ u32 s.a[1] ∧ s.mem.readNum (u32 s.a[0]) 4 = gb7Magic
        ∧ s.mem.read (u32 s.a[0] + 4) = 1 ∧ 12 + gb7Width s * gb7Height s ≤ u32 s.a[1]
        ∧ (gb7decDest s).valid s.mem = true ∧ (gb7decDest s).meets (gb7File s) = false := by
  have hsize : gb7HeaderSize = 12 := rfl
  simp [gb7decChecks, hsize]

/-- The bytes of the magic number (R120). -/
theorem magic_iff (m : Memory) (x : Nat) : m.readNum x 4 = gb7Magic ↔ m.readBytes x 4 = [0x47, 0x42, 0x37, 0x1D] := by
  have hbyte : ∀ i, (m.read i).toNat < 256 := fun i => (m.read i).isLt
  have h0 := hbyte x
  have h1 := hbyte (x + 1)
  have h2 := hbyte (x + 2)
  have h3 := hbyte (x + 3)
  have hnum : m.readNum x 4 = (m.read x).toNat * 256 ^ 3 + (m.read (x + 1)).toNat * 256 ^ 2
      + (m.read (x + 2)).toNat * 256 + (m.read (x + 3)).toNat := by simp [Memory.readNum, Nat.add_assoc]
  have hbytes : m.readBytes x 4 = [0x47, 0x42, 0x37, 0x1D] ↔ (m.read x).toNat = 0x47 ∧ (m.read (x + 1)).toNat = 0x42
      ∧ (m.read (x + 2)).toNat = 0x37 ∧ (m.read (x + 3)).toNat = 0x1D := by
    simp [Memory.readBytes, List.range_succ, ← BitVec.toNat_inj]
  rw [hnum, hbytes, gb7Magic]
  omega

/-- The signature of a GB7 file of version 1 is its magic number and the version byte (R120). -/
theorem signature_iff (m : Memory) (x : Nat) :
    m.readBytes x 5 = [0x47, 0x42, 0x37, 0x1D, 1] ↔ m.readNum x 4 = gb7Magic ∧ m.read (x + 4) = 1 := by
  rw [magic_iff]
  simp [Memory.readBytes, List.range_succ, and_assoc]

/-- The width and height of a file fit a register (R120). -/
theorem gb7_size_lt (s : State) : gb7Width s < 65536 ∧ gb7Height s < 65536 :=
  ⟨readNum_lt s.mem _ 2, readNum_lt s.mem _ 2⟩

/-- What a GB7DEC whose checks pass does: it stores the packed bytes of the file at its destination, and its results are the size
and the flag of the header (R122, R127). -/
theorem exec_gb7dec {s : State} (h : ∀ c ∈ gb7decChecks s, c.1 = true) :
    ∃ t, exec .gb7dec s = .next t ∧ t.status = 0x00010000#32
      ∧ t.r[0] = wordOf (gb7Width s) ∧ t.r[1] = wordOf (gb7Height s)
      ∧ t.r[2] = (if (s.mem.read (u32 s.a[0] + 5)).getLsbD 0 then 1 else 0)
      ∧ ∀ i < gb7Width s * gb7Height s, t.mem.read (u32 s.a[2] + i) = s.mem.read (u32 s.a[0] + 12 + i) := by
  refine ⟨_, exec_of_checks (i := .gb7dec) h, rfl, rfl, rfl, rfl, fun i hi => ?_⟩
  have hlen : i < (gb7decBytes s).length := by simpa [gb7decBytes] using hi
  calc (s.mem.store (u32 s.a[2]) (gb7decBytes s)).read (u32 s.a[2] + i)
      = (gb7decBytes s)[i] := read_store_mem hlen
    _ = s.mem.read (u32 s.a[0] + 12 + i) := by simp [gb7decBytes, Memory.readBytes, gb7HeaderSize]

/-- GB7DEC's checks pass on a whole GB7 file in memory with a destination that is valid and apart (R123). -/
theorem HoldsGb7File.gb7decChecks_pass {s : State} {mask : Bool} {w h : Nat} {px : List Byte}
    (hfile : HoldsGb7File s.mem (u32 s.a[0]) mask w h px) (hvalid : (gb7File s).valid s.mem = true)
    (hlen : u32 s.a[1] = 12 + w * h) (hdest : Range.valid { base := u32 s.a[2], len := w * h } s.mem = true)
    (hmeets : Range.meets { base := u32 s.a[2], len := w * h } (gb7File s) = false) :
    ∀ c ∈ gb7decChecks s, c.1 = true := by
  have hw : gb7Width s = w := hfile.width
  have hh : gb7Height s = h := hfile.height
  refine (gb7decChecks_pass_iff s).2 ⟨hvalid, by omega, hfile.magic, hfile.version, ?_, ?_, ?_⟩
  · rw [hw, hh, hlen]
  · simpa only [gb7decDest, hw, hh] using hdest
  · simpa only [gb7decDest, hw, hh] using hmeets

/-! ## GB7ENC (R130, R137) -/

/-- The checks of GB7ENC all pass exactly where its layer is legal and not too large, and its ranges are valid and apart
(R137). -/
theorem gb7encChecks_pass_iff (s : State) :
    (∀ c ∈ gb7encChecks s, c.1 = true) ↔
      let l := s.mem.layer (u32 s.a[0])
      (descriptorRange s).valid s.mem = true ∧ l.kind ≠ none ∧ (0 < l.width ∧ 0 < l.height)
        ∧ (l.width ≤ 65535 ∧ l.height ≤ 65535) ∧ l.dataRange.valid s.mem = true ∧ (gb7encDest s).valid s.mem = true
        ∧ (gb7encDest s).meets (descriptorRange s) = false ∧ (gb7encDest s).meets l.dataRange = false := by
  simp [gb7encChecks, positive_iff, Option.isSome_iff_ne_none]

/-- The packed pixel bytes of the file GB7ENC writes (R130). -/
def gb7encPixelBytes (fo : Bool) (s : State) : List Byte :=
  (List.range (s.mem.layer (u32 s.a[0])).pixels).map fun i => encodePixel (gb7encPixel fo s i)

/-- The file GB7ENC writes is its header and those bytes (R130, R136). -/
theorem gb7encFile_eq (fo : Bool) (s : State) :
    let l := s.mem.layer (u32 s.a[0])
    gb7encFile fo s
      = gb7Header (hasMask l.pixels (gb7encPixel fo s)) l.width.toNat l.height.toNat ++ gb7encPixelBytes fo s := rfl

/-- A file whose pixel bytes are GB7ENC's holds the encoded pixel `i` at offset `12 + i` (R130). -/
theorem HoldsGb7File.read_encoded {m : Memory} {base w h : Nat} {mask fo : Bool} {s : State}
    (hfile : HoldsGb7File m base mask w h (gb7encPixelBytes fo s)) {i : Nat}
    (hi : i < (s.mem.layer (u32 s.a[0])).pixels) : m.read (base + 12 + i) = encodePixel (gb7encPixel fo s i) := by
  rw [hfile.pixels i (by simpa [gb7encPixelBytes] using hi)]
  simp [gb7encPixelBytes]

/-- What a GB7ENC whose checks pass does: it leaves a GB7 file of the layer's size with its mask flag, and its results are the
file's length and that flag (R130, R135, R136). -/
theorem exec_gb7enc {fo : Bool} {s : State} (h : ∀ c ∈ gb7encChecks s, c.1 = true) :
    let l := s.mem.layer (u32 s.a[0])
    let mask := hasMask l.pixels (gb7encPixel fo s)
    ∃ t, exec (.gb7enc fo) s = .next t ∧ t.status = 0x00010000#32
      ∧ t.r[0] = wordOf (12 + l.pixels : Nat) ∧ t.r[1] = (if mask then 1 else 0)
      ∧ HoldsGb7File t.mem (u32 s.a[1]) mask l.width.toNat l.height.toNat (gb7encPixelBytes fo s) := by
  obtain ⟨-, -, -, ⟨hwidth, hheight⟩, -⟩ := (gb7encChecks_pass_iff s).1 h
  refine ⟨_, exec_of_checks (i := .gb7enc fo) h, rfl, rfl, rfl, ?_⟩
  rw [ended_mem, wrote_mem, output, gb7encFile_eq]
  exact holdsGb7File_store s.mem (u32 s.a[1]) _ _ (by omega) (by omega)

/-- The pixels of a layer with a size are those of its rows (R57). -/
theorem pixels_eq_mul {l : Layer} (hw : 0 < l.width) (hh : 0 < l.height) : l.pixels = l.width.toNat * l.height.toNat :=
  Int.toNat_mul hw.le hh.le

/-- The length of a GB7 file fits a register (R121, R129). -/
theorem gb7_length_lt {l : Layer} (hw : 0 < l.width) (hh : 0 < l.height) (hw' : l.width ≤ 65535) (hh' : l.height ≤ 65535) :
    12 + l.pixels < 2 ^ 32 := by
  have hle : l.width.toNat * l.height.toNat ≤ 65535 * 65535 := Nat.mul_le_mul (by omega) (by omega)
  rw [pixels_eq_mul hw hh]
  omega

/-! ## The round trip (R139) -/

/-- A command that ends with the STATUS of a success passed all its checks (R247). -/
theorem checks_of_done {i : Instr} {s t : State} (ht : exec i s = .next t) (hdone : t.status = 0x00010000#32) :
    ∀ c ∈ checks i s, c.1 = true := by
  obtain ⟨e, -, rfl⟩ | ⟨hpass, -⟩ := exec_cases ht
  · exact absurd hdone (statusWord_ne_done e)
  · exact firstFailing_eq_none.1 hpass

/-- The pixel GB7ENC encodes of a Gb7 layer that declares a mask, with no force flag, is that of its stored byte (R139). -/
theorem gb7encPixel_masked {s : State} {l : Layer} (hl : s.mem.layer (u32 s.a[0]) = l) (hkind : l.kind = some .gb7)
    (halpha : l.hasAlpha = true) (hhidden : l.alphaHidden = false) (hremoved : l.alphaRemoved = false) (i : Nat) :
    gb7encPixel false s i = gb7Pixel true (s.mem.read (u32 l.data + i)) := by
  simp [gb7encPixel, normPixel, hl, hhidden, hremoved, storedPixel_gb7 hkind, halpha]

/-! ## The statements -/

/-- Settles O28: the signature and the ranges make every check pass; the stored bytes are the packed ones of the file. -/
theorem gb7DecodeCopiesPackedPixels : Obligations.Gb7DecodeCopiesPackedPixels := by
  intro s w h hfile hsignature hlen hdest hmeets
  have hw : gb7Width s = w := readNum_two s.mem _
  have hh : gb7Height s = h := readNum_two s.mem _
  obtain ⟨hmagic, hversion⟩ := (signature_iff s.mem _).1 hsignature
  have hchecks : ∀ c ∈ gb7decChecks s, c.1 = true :=
    (gb7decChecks_pass_iff s).2 ⟨(valid_iff _ _).2 (.inr hfile), by omega, hmagic, hversion, by rwa [hw, hh], hdest, hmeets⟩
  obtain ⟨t, ht, hstatus, hr0, hr1, hr2, hread⟩ := exec_gb7dec hchecks
  obtain ⟨hwlt, hhlt⟩ := gb7_size_lt s
  rw [hw, hh] at hread
  refine ⟨t, ht, frame_exec ht, hstatus, ?_, ?_, ?_, fun n hn hkept => exec_results_kept ht hn hkept, hread⟩
  · rw [hr0, u32_wordOf (by omega), hw]
  · rw [hr1, u32_wordOf (by omega), hh]
  · rw [hr2, u32_lowBit]

/-- Settles O29: the STATUS of GB7DEC's list of checks, each check's failure spelled out. -/
theorem gb7DecodeReportsFirstFailingCheck : Obligations.Gb7DecodeReportsFirstFailingCheck := by
  intro s
  obtain ⟨t, ht, hstatus⟩ := exec_endStatus .gb7dec s
  refine ⟨t, ht, hstatus.trans ?_⟩
  simp only [checks, gb7decChecks, endStatus_cons, endStatus_nil, decide_eq_false_iff_not, Nat.not_le, magic_iff,
    Bool.not_eq_false']
  rfl

/-- Settles O30: every check passes, and the memory holds the file whose parts the statement lists. -/
theorem gb7EncodeWritesFile : Obligations.Gb7EncodeWritesFile := by
  intro fo s l n px hdesc hkind hw hw' hh hh' hdata hdest hmeetsDesc hmeetsData
  have hchecks : ∀ c ∈ gb7encChecks s, c.1 = true :=
    (gb7encChecks_pass_iff s).2 ⟨hdesc, hkind, ⟨hw, hh⟩, ⟨hw', hh'⟩, hdata, hdest, hmeetsDesc, hmeetsData⟩
  obtain ⟨t, ht, hstatus, hr0, hr1, hfile⟩ := exec_gb7enc (fo := fo) hchecks
  refine ⟨t, if hasMask n px then 1 else 0, ht, frame_exec ht, hstatus, if_congr (hasMask_iff n px) rfl rfl, ?_, ?_,
    fun n hn hkept => exec_results_kept ht hn hkept, hfile.magic, ?_, ?_, ?_, ?_, hfile.reserved, fun i hi => ?_⟩
  · rw [hr0]
    exact u32_wordOf (gb7_length_lt hw hh hw' hh')
  · rw [hr1]
    exact apply_ite u32 _ _ _
  · rw [hfile.version]
    rfl
  · rw [hfile.flags]
    exact apply_ite BitVec.toNat _ _ _
  · rw [hfile.width]
    exact Int.toNat_of_nonneg hw.le
  · rw [hfile.height]
    exact Int.toNat_of_nonneg hh.le
  · rw [hfile.read_encoded hi]
    exact toNat_encodePixel _

/-- Settles O31: the STATUS of GB7ENC's list of checks, each check's failure spelled out. -/
theorem gb7EncodeReportsFirstFailingCheck : Obligations.Gb7EncodeReportsFirstFailingCheck := by
  intro fo s l
  obtain ⟨t, ht, hstatus⟩ := exec_endStatus (.gb7enc fo) s
  refine ⟨t, ht, hstatus.trans ?_⟩
  simp only [checks, gb7encChecks, endStatus_cons, endStatus_nil, positive_eq_false_iff, Option.isSome_eq_false_iff,
    Option.isNone_iff_eq_none, Bool.and_eq_false_iff, Bool.not_eq_false', decide_eq_false_iff_not, Int.not_le]
  rfl

/-- Settles O32: the memory holds the encoded file, so that the decoder's checks pass on it and it copies the encoded bytes, each
the byte its pixel came from. -/
theorem gb7RoundTripIsExact : Obligations.Gb7RoundTripIsExact := by
  intro s t u l hkind halpha hhidden hremoved ht hdone hmem haddr hlen hdest hmeets
  have hpass : ∀ c ∈ gb7encChecks s, c.1 = true := checks_of_done ht hdone
  obtain ⟨-, -, ⟨hw, hh⟩, -, -, henc, -⟩ := (gb7encChecks_pass_iff s).1 hpass
  obtain ⟨t', ht', -, -, hmask, hfile⟩ := exec_gb7enc (fo := false) hpass
  obtain rfl : t' = t := by
    injection ht'.symm.trans ht
  have hpixels : l.pixels = l.width.toNat * l.height.toNat := pixels_eq_mul hw hh
  have hrange : gb7File u = gb7encDest s := by
    simp only [gb7File, gb7encDest, haddr, hlen, gb7HeaderSize, l]
  have hsize : u.mem.size = s.mem.size := (congrArg Memory.size hmem).trans (frame_exec ht).size
  rw [← hmem, ← haddr] at hfile
  obtain ⟨v, hv, hstatus, hr0, hr1, hr2, hread⟩ := exec_gb7dec (hfile.gb7decChecks_pass
    (by rw [hrange, valid_congr hsize, henc]) (hpixels ▸ hlen) (hpixels ▸ hdest) (by rw [hrange]; exact hpixels ▸ hmeets))
  have hwidth : gb7Width u = l.width.toNat := hfile.width
  have hheight : gb7Height u = l.height.toNat := hfile.height
  refine ⟨v, hv, hstatus, ?_, ?_, ?_, fun i hi => ?_⟩
  · rw [hr0, hwidth, Int.toNat_of_nonneg hw.le]
  · rw [hr1, hheight, Int.toNat_of_nonneg hh.le]
  · rw [hr2, hmask, hfile.flags]
    cases hasMask l.pixels (gb7encPixel false s) <;> rfl
  · rw [hread i (by rw [hwidth, hheight, ← hpixels]; exact hi), hfile.read_encoded hi,
      gb7encPixel_masked rfl hkind halpha hhidden hremoved, encodePixel_gb7Pixel]

end Sys2Proof.Machine
end

section
/-! The Curve Engine (spec/42_curve_engine.md R145 to R176): LUTBUILD's points and its curve in integers, the channel
and byte maps of CURVE and CURVEG7, the sums of the histogram blocks, and the commands' ordered checks. -/

namespace Sys2Proof.Machine

/-! ## How a command ends (R37, R247) -/

/-- A command that ends with the STATUS of a success has had its effect (R37, R247). -/
theorem eq_of_done {i : Instr} {s t : State} (ht : exec i s = .next t) (hdone : t.status = 0x00010000#32) :
    t = (s.wrote (destination i s).base (output i s) (results i s)).ended doneStatus := by
  injection ht.symm.trans (exec_of_checks (checks_of_done ht hdone))

/-- The STATUS of a command's list of checks, in any of its forms, is the one it ends with. -/
theorem exec_status_of_checks {s : State} {w : Word} (i : Instr) (h : endStatus (checks i s) = w) :
    ∃ t, exec i s = .next t ∧ t.status = w :=
  h ▸ exec_endStatus i s

/-! ## The points of LUTBUILD (R147, R148) -/

theorem clamp_eq_max_min {lo hi : Int} (h : lo ≤ hi) (v : Int) : clamp v lo hi = max lo (min v hi) := by
  unfold clamp
  split_ifs <;> omega

theorem domainMax_eq (d7 : Bool) : (domainMax d7 : Int) = if d7 then 127 else 255 := by
  cases d7 <;> rfl

theorem domainMax_le (d7 : Bool) : domainMax d7 ≤ 255 := by
  cases d7 <;> decide

/-- Points in rising order of x stay as they are but for the clamp (R147, R148). -/
theorem curvePoints_of_le {m : Nat} {x1 x2 : Int} (h : clamp x1 0 m ≤ clamp x2 0 m) (y1 y2 : Int) :
    curvePoints m x1 y1 x2 y2
      = { x1 := clamp x1 0 m, y1 := clamp y1 0 m, x2 := clamp x2 0 m, y2 := clamp y2 0 m } :=
  if_neg (Int.not_lt.2 h)

/-- Points in falling order of x are exchanged as pairs (R148). -/
theorem curvePoints_of_lt {m : Nat} {x1 x2 : Int} (h : clamp x2 0 m < clamp x1 0 m) (y1 y2 : Int) :
    curvePoints m x1 y1 x2 y2
      = { x1 := clamp x2 0 m, y1 := clamp y2 0 m, x2 := clamp x1 0 m, y2 := clamp y1 0 m } :=
  if_pos h

/-- Both points lie in the square `[0, m]` by `[0, m]`, and the first is not right of the second. -/
structure CurvePoints.InDomain (m : Nat) (p : CurvePoints) : Prop where
  x1_nonneg : 0 ≤ p.x1
  x1_le_x2 : p.x1 ≤ p.x2
  x2_le : p.x2 ≤ m
  y1_nonneg : 0 ≤ p.y1
  y1_le : p.y1 ≤ m
  y2_nonneg : 0 ≤ p.y2
  y2_le : p.y2 ≤ m

theorem curvePoints_inDomain (m : Nat) (x1 y1 x2 y2 : Int) : (curvePoints m x1 y1 x2 y2).InDomain m := by
  have hmem : ∀ v, 0 ≤ clamp v 0 m ∧ clamp v 0 m ≤ m := fun v => clamp_mem (Int.natCast_nonneg m)
  obtain h | h := le_or_gt (clamp x1 0 m) (clamp x2 0 m)
  · rw [curvePoints_of_le h]
    exact ⟨(hmem _).1, h, (hmem _).2, (hmem _).1, (hmem _).2, (hmem _).1, (hmem _).2⟩
  · rw [curvePoints_of_lt h]
    exact ⟨(hmem _).1, h.le, (hmem _).2, (hmem _).1, (hmem _).2, (hmem _).1, (hmem _).2⟩

/-! ## Segments (R151) -/

/-- A segment with a width is one quotient of integers. -/
theorem seg_eq_div {xa xb : Int} (h : xa < xb) (ya yb x : Int) :
    seg xa ya xb yb x = ((ya * (xb - xa) + (yb - ya) * (x - xa) : Int) : Rat) / ((xb - xa : Int) : Rat) := by
  have hspan : ((xb - xa : Int) : Rat) ≠ 0 := by exact_mod_cast (by omega : xb - xa ≠ 0)
  rw [seg, if_neg (by omega), eq_div_iff hspan, add_mul, div_mul_cancel₀ _ hspan]
  push_cast
  ring

theorem seg_of_eq {xa xb : Int} (h : xb = xa) (ya yb x : Int) : seg xa ya xb yb x = yb := if_pos h

/-- A segment with a width, rounded in integers (R17, R151). -/
theorem rnd_seg {xa xb : Int} (h : xa < xb) (ya yb x : Int) :
    rnd (seg xa ya xb yb x) = (2 * (ya * (xb - xa) + (yb - ya) * (x - xa)) + (xb - xa)) / (2 * (xb - xa)) := by
  rw [seg_eq_div h, rnd_div _ _ (by omega)]

/-- Between its end points a segment stays between bounds of their values. -/
theorem seg_mem_Icc {xa ya xb yb x lo hi : Int} (hxa : xa ≤ x) (hxb : x ≤ xb) (hya : lo ≤ ya ∧ ya ≤ hi)
    (hyb : lo ≤ yb ∧ yb ≤ hi) : (lo : Rat) ≤ seg xa ya xb yb x ∧ seg xa ya xb yb x ≤ hi := by
  obtain h | h := (hxa.trans hxb).eq_or_lt
  · rw [seg_of_eq h.symm]
    exact_mod_cast hyb
  · have hspan : (0 : Rat) < ((xb - xa : Int) : Rat) := by exact_mod_cast (by omega : 0 < xb - xa)
    rw [seg_eq_div h, le_div_iff₀ hspan, div_le_iff₀ hspan]
    norm_cast
    have hmix : ya * (xb - xa) + (yb - ya) * (x - xa) = ya * (xb - x) + yb * (x - xa) := by ring
    have hleft : 0 ≤ xb - x := by omega
    have hright : 0 ≤ x - xa := by omega
    constructor
    · linarith [mul_le_mul_of_nonneg_right hya.1 hleft, mul_le_mul_of_nonneg_right hyb.1 hright]
    · linarith [mul_le_mul_of_nonneg_right hya.2 hleft, mul_le_mul_of_nonneg_right hyb.2 hright]

/-- The diagonal segment is the identity (R153). -/
theorem seg_diagonal {m : Int} (hm : 0 < m) (x : Int) : seg 0 0 m m x = x := by
  have hm' : (m : Rat) ≠ 0 := by exact_mod_cast hm.ne'
  rw [seg_eq_div hm, div_eq_iff (by simpa using hm')]
  push_cast
  ring

/-! ## The curve (R149, R150) and its table (R152) -/

theorem curveValue_mem_Icc {m : Nat} {p : CurvePoints} (hp : p.InDomain m) {x : Int} (h0 : 0 ≤ x) (hm : x ≤ m) :
    ((0 : Int) : Rat) ≤ curveValue m p x ∧ curveValue m p x ≤ ((m : Int) : Rat) := by
  have hy1 := And.intro hp.y1_nonneg hp.y1_le
  have hy2 := And.intro hp.y2_nonneg hp.y2_le
  unfold curveValue
  split_ifs with h1 h2
  · exact seg_mem_Icc h0 h1 ⟨le_rfl, Int.natCast_nonneg m⟩ hy1
  · exact seg_mem_Icc (not_le.1 h1).le h2 hy1 hy2
  · exact seg_mem_Icc (not_le.1 h2).le hm hy2 ⟨Int.natCast_nonneg m, le_rfl⟩

/-- The clamp of a table entry has nothing to do: the entry is the rounded curve (R152). -/
theorem toNat_lutEntry {m : Nat} (hm : m ≤ 255) {p : CurvePoints} (hp : p.InDomain m) {x : Nat} (hx : x ≤ m) :
    ((lutEntry m p x).toNat : Int) = rnd (curveValue m p x) := by
  obtain ⟨hlo, hhi⟩ := curveValue_mem_Icc hp (Int.natCast_nonneg x) (Int.ofNat_le.2 hx)
  obtain ⟨h0, h1⟩ := rnd_mem_Icc hlo hhi
  rw [lutEntry, clamp_of_mem h0 h1, toNat_byteOf h0 (by omega)]

/-- The rounded curve, segment by segment, in integers (R150, R151). -/
theorem rnd_curveValue {m : Nat} {p : CurvePoints} (hp : p.InDomain m) {x : Int} (hx : x ≤ m) :
    rnd (curveValue m p x) =
      if x ≤ p.x1 then (if p.x1 = 0 then p.y1 else (2 * (p.y1 * x) + p.x1) / (2 * p.x1))
      else if x ≤ p.x2 then
        (2 * (p.y1 * (p.x2 - p.x1) + (p.y2 - p.y1) * (x - p.x1)) + (p.x2 - p.x1)) / (2 * (p.x2 - p.x1))
      else (2 * (p.y2 * (m - p.x2) + (m - p.y2) * (x - p.x2)) + (m - p.x2)) / (2 * (m - p.x2)) := by
  unfold curveValue
  split_ifs with h1 hzero h2
  · rw [seg_of_eq hzero, rnd_intCast]
  · have hpos : 0 < p.x1 := hp.x1_nonneg.lt_of_ne' hzero
    simpa using rnd_seg hpos 0 p.y1 x
  · exact rnd_seg (by omega) p.y1 p.y2 x
  · exact rnd_seg (by omega) p.y2 m x

/-- The curve through the two corners is the identity (R153). -/
theorem curveValue_identity {m : Nat} {x : Int} (h0 : 0 ≤ x) (hm : x ≤ m) :
    curveValue m { x1 := 0, y1 := 0, x2 := m, y2 := m } x = x := by
  simp only [curveValue, hm, if_true]
  split_ifs with h
  · obtain rfl : x = 0 := le_antisymm h h0
    rw [seg_of_eq rfl]
  · exact seg_diagonal (by omega) x

/-! ## LUTBUILD (R145) -/

theorem lutbuildPoints_inDomain (d7 : Bool) (s : State) : (lutbuildPoints d7 s).InDomain (domainMax d7) :=
  curvePoints_inDomain _ _ _ _ _

/-- What LUTBUILD does where its destination is valid: it stores the table's entries at A4 (R145). -/
theorem exec_lutbuild {d7 : Bool} {s : State} (h : (lutbuildDest d7 s).valid s.mem = true) :
    ∃ t, exec (.lutbuild d7) s = .next t ∧ Frame (lutbuildDest d7 s) s t ∧ t.status = 0x00010000#32 ∧ t.r = s.r
      ∧ ∀ x ≤ domainMax d7, ((t.mem.read (u32 s.a[4] + x)).toNat : Int)
          = rnd (curveValue (domainMax d7) (lutbuildPoints d7 s) x) := by
  have hchecks : ∀ c ∈ checks (.lutbuild d7) s, c.1 = true := by simpa [checks, lutbuildChecks] using h
  refine ⟨_, exec_of_checks hchecks, frame_wrote (.lutbuild d7) s _ _, rfl, rfl, fun x hx => ?_⟩
  have hlen : x < (lutbuildBytes d7 s).length := by simpa [lutbuildBytes] using Nat.lt_succ_of_le hx
  have hentry : (lutbuildBytes d7 s)[x] = lutEntry (domainMax d7) (lutbuildPoints d7 s) x := by simp [lutbuildBytes]
  rw [← toNat_lutEntry (domainMax_le d7) (lutbuildPoints_inDomain d7 s) hx, ← hentry]
  exact congrArg (fun b : Byte => (b.toNat : Int)) (read_store_mem hlen)

/-! ## The packed source of CURVEG7 and HISTG7 (R161, R175) -/

theorem countedSource_one (s : State) : countedSource 1 s = { base := u32 s.a[0], len := (s32 s.a[1]).toNat } := by
  rw [countedSource, Nat.one_mul, pixelCount]

/-! ## CURVE (R155, R156) -/

/-- Channel `c` of a pixel of an RGBA buffer is its byte number `c` (R50). -/
theorem chan_rgba (m : Memory) (p i : Nat) {c : Nat} (hc : c < 4) : (m.rgba p i).chan c = m.read (p + 4 * i + c) := by
  interval_cases c <;> rfl

/-- Channel `c` of the pixel CURVE writes goes through the LUT at `A(3+c)`, if it has one (R155). -/
theorem chan_curveOutput (lr lg lb la : Bool) (s : State) (i : Nat) {c : Nat} (hc : c < 4) :
    (curveOutput lr lg lb la s i).chan c
      = curveChannel s.mem [lr, lg, lb, la][c] s.a[3 + c] (s.mem.read (u32 s.a[0] + 4 * i + c)) := by
  interval_cases c <;> rfl

/-! ## CURVEG7 (R160 to R168) -/

theorem legal_eq_false_iff (cmb : Combine) : cmb.legal = false ↔ cmb = .reserved3 := by
  cases cmb <;> simp [Combine.legal]

/-- A GB7 byte in its number: the mask bit's 128 and the luma's low seven bits (R167). -/
theorem toNat_gb7Byte (mask : Bool) (luma : Nat) :
    (gb7Byte mask luma).toNat = (if mask then 128 else 0) + luma % 128 := by
  rw [gb7Byte, BitVec.toNat_ofNat]
  exact Nat.mod_eq_of_lt (by split_ifs <;> omega)

theorem luma7_gb7Byte (mask : Bool) (luma : Nat) : luma7 (gb7Byte mask luma) = luma % 128 := by
  rw [luma7, toNat_gb7Byte]
  split_ifs <;> omega

theorem maskBit_gb7Byte (mask : Bool) (luma : Nat) : maskBit (gb7Byte mask luma) = mask := by
  rw [Bool.eq_iff_iff, maskBit_iff, toNat_gb7Byte]
  cases mask
  · simpa using Nat.mod_lt luma (by decide)
  · simp

/-- A GB7 byte is made of its own mask bit and luma (R51). -/
theorem gb7Byte_maskBit_luma7 (b : Byte) : gb7Byte (maskBit b) (luma7 b) = b := by
  have hdiv := toNat_div_128 b
  apply BitVec.eq_of_toNat_eq
  rw [toNat_gb7Byte, luma7]
  split_ifs at hdiv ⊢ <;> omega

/-- CURVEG7 with alpha mode preserve and no LUT maps each byte to itself (R168). -/
theorem curveg7Byte_preserve (inv : Bool) (cmb : Combine) (s : State) (b : Byte) :
    curveg7Byte false .preserve inv cmb s b = b := gb7Byte_maskBit_luma7 b

theorem thresholdBit_iff (inv : Bool) (luma : Nat) (th : Int) :
    thresholdBit inv luma th = true ↔ if inv then (luma : Int) < th else th ≤ (luma : Int) := by
  cases inv <;> simp [thresholdBit]

/-- Byte `i` of a stored CURVEG7 output is the map of source byte `i` (R160). -/
theorem read_curveg7Bytes {yl inv : Bool} {am : AlphaMode} {cmb : Combine} {s : State} {i : Nat} (h : i < pixelCount s) :
    (s.mem.store (u32 s.a[2]) (curveg7Bytes yl am inv cmb s)).read (u32 s.a[2] + i)
      = curveg7Byte yl am inv cmb s (s.mem.read (u32 s.a[0] + i)) := by
  rw [read_store_mem (by simpa [curveg7Bytes] using h)]
  simp [curveg7Bytes]

/-! ## Histograms (R172, R176) -/

/-- The checks of HIST all pass exactly where its pixels are some and its ranges are valid and apart (R171). -/
theorem histChecks_pass_iff (ao : Bool) (s : State) :
    (∀ c ∈ histChecks ao s, c.1 = true) ↔
      0 < s32 s.a[1] ∧ (countedSource 4 s).valid s.mem = true ∧ (histDest ao s).valid s.mem = true
        ∧ (histDest ao s).meets (countedSource 4 s) = false := by
  simp [histChecks]

/-- The checks of HISTG7 all pass exactly where its pixels are some and its ranges are valid and apart (R175). -/
theorem histg7Checks_pass_iff (s : State) :
    (∀ c ∈ histg7Checks s, c.1 = true) ↔
      0 < s32 s.a[1]
        ∧ Range.valid { base := u32 s.a[0], len := (s32 s.a[1]).toNat } s.mem = true ∧ (histg7Dest s).valid s.mem = true
        ∧ (histg7Dest s).meets { base := u32 s.a[0], len := (s32 s.a[1]).toNat } = false := by
  simp [histg7Checks, countedSource_one]

/-- Each of `n` items has one value below `k`, so the counts of the values sum to `n` (R172, R176). -/
theorem sum_card_filter_eq {n k : Nat} {f : Nat → Nat} (h : ∀ i, f i < k) :
    (∑ v ∈ Finset.range k, ((Finset.range n).filter fun i => f i = v).card) = n := by
  rw [← Finset.card_eq_sum_card_fiberwise fun i _ => Finset.mem_coe.2 (Finset.mem_range.2 (h i)), Finset.card_range]

/-! ## The statements -/

/-- Settles O33: the bounds are those of every pair of curve points; the two orders are the two cases of the exchange. -/
theorem lutPointsAreClampedAndOrdered : Obligations.LutPointsAreClampedAndOrdered := by
  intro d7 s top x1 y1 x2 y2 p
  have htop : (domainMax d7 : Int) = top := domainMax_eq d7
  have hclamp : ∀ v, clamp v 0 (domainMax d7) = max 0 (min v top) := fun v => by
    rw [clamp_eq_max_min (Int.natCast_nonneg _), htop]
  obtain ⟨hx1, hx12, hx2, hy1, hy1', hy2, hy2'⟩ := lutbuildPoints_inDomain d7 s
  rw [htop] at hx2 hy1' hy2'
  refine ⟨hx1, hx12, hx2, hy1, hy1', hy2, hy2', fun h => ?_, fun h => ?_⟩
  · simp only [x1, y1, x2, y2, ← hclamp] at h ⊢
    exact curvePoints_of_le h _ _
  · simp only [x1, y1, x2, y2, ← hclamp] at h ⊢
    exact curvePoints_of_lt h _ _

/-- Settles O34: each entry is the rounded curve, which is known in integers. -/
theorem lutbuildWritesThreeSegments : Obligations.LutbuildWritesThreeSegments := by
  intro d7 s hdest max p
  obtain ⟨t, ht, hframe, hstatus, hr, hread⟩ := exec_lutbuild hdest
  exact ⟨t, ht, hframe, hstatus, hr, fun x hx =>
    (hread x hx).trans (rnd_curveValue (lutbuildPoints_inDomain d7 s) (Int.ofNat_le.2 hx))⟩

/-- Settles O35: the two points are the corners, where the curve is the identity. -/
theorem identityLutIsIdentity : Obligations.IdentityLutIsIdentity := by
  intro d7 s max h0 h1 h2 h3 hdest
  obtain ⟨t, ht, -, hstatus, -, hread⟩ := exec_lutbuild hdest
  have hpoints : lutbuildPoints d7 s = { x1 := 0, y1 := 0, x2 := domainMax d7, y2 := domainMax d7 } := by
    rw [lutbuildPoints, h0, h1, h2, h3]
    cases d7 <;> decide
  refine ⟨t, ht, hstatus, fun x hx => ?_⟩
  have hentry := hread x hx
  rw [hpoints, curveValue_identity (m := domainMax d7) (Int.natCast_nonneg x) (Int.ofNat_le.2 hx),
    rnd_intCast] at hentry
  exact_mod_cast hentry

/-- Settles O36: every check passes, and pixel `i` of the stored buffer holds its channels, each through its LUT. -/
theorem curveMapsChannels : Obligations.CurveMapsChannels := by
  intro lr lg lb la s hcount hsource hlr hlg hlb hla hdest hms hmr hmg hmb hma
  have hchecks : ∀ c ∈ checks (.curve lr lg lb la) s, c.1 = true := by
    simpa [checks, curveChecks, hlr, hlg, hlb, hla, hdest, hmr, hmg, hmb, hma] using ⟨hcount, hsource, hms⟩
  refine ⟨_, exec_of_checks hchecks, frame_wrote (.curve lr lg lb la) s _ _, rfl, rfl, fun i hi c hc => ?_⟩
  calc (s.mem.store (u32 s.a[2]) (curveBytes lr lg lb la s)).read (u32 s.a[2] + 4 * i + c)
      = ((s.mem.store (u32 s.a[2]) (curveBytes lr lg lb la s)).rgba (u32 s.a[2]) i).chan c := (chan_rgba _ _ _ hc).symm
    _ = (curveOutput lr lg lb la s i).chan c := by
      rw [curveBytes, rgba_store_pixelBytes s.mem (u32 s.a[2]) (pixelCount s) i (curveOutput lr lg lb la s) hi]
    _ = curveChannel s.mem [lr, lg, lb, la][c] s.a[3 + c] (s.mem.read (u32 s.a[0] + 4 * i + c)) :=
      chan_curveOutput lr lg lb la s i hc

/-- Settles O37: every check passes, and byte `i` of the stored buffer has the mask bit and the luma of the byte map. -/
theorem curveg7MapsBytes : Obligations.Curveg7MapsBytes := by
  intro yl am inv cmb s hcmb hcount hsource hlut hdest hms hml
  have hlegal : cmb.legal = true := by rwa [← Bool.not_eq_false, legal_eq_false_iff]
  have hchecks : ∀ c ∈ checks (.curveg7 yl am inv cmb) s, c.1 = true := by
    simpa [checks, curveg7Checks, countedSource_one, hlegal, hlut, hdest, hml] using ⟨hcount, hsource, hms⟩
  refine ⟨_, exec_of_checks hchecks, frame_wrote (.curveg7 yl am inv cmb) s _ _, rfl, rfl, fun i hi => ?_⟩
  intro byte luma pass out
  have hout : out = (gb7Byte (alphaBit am inv cmb (s32 s.a[4]) (maskBit (s.mem.read (u32 s.a[0] + i))) luma) luma).toNat :=
    congrArg BitVec.toNat (read_curveg7Bytes hi)
  have hluma : out % 128 = luma % 128 := by
    rw [hout]
    exact luma7_gb7Byte _ luma
  have hbit : 128 ≤ out ↔ alphaBit am inv cmb (s32 s.a[4]) (maskBit (s.mem.read (u32 s.a[0] + i))) luma = true := by
    rw [hout, ← maskBit_iff, maskBit_gb7Byte]
  have hmask : maskBit (s.mem.read (u32 s.a[0] + i)) = true ↔ 128 ≤ byte := maskBit_iff _
  have hpass : thresholdBit inv luma (s32 s.a[4]) = true ↔ pass := thresholdBit_iff inv luma _
  refine ⟨hluma, ?kept, ?set, ?cleared, ?replace, ?and, ?or⟩
  case kept => rintro rfl; exact hbit.trans hmask
  case set => rintro rfl; exact hbit.2 rfl
  case cleared => rintro rfl; exact not_le.1 fun h => Bool.false_ne_true (hbit.1 h)
  case replace => rintro rfl rfl; exact hbit.trans hpass
  case and => rintro rfl rfl; exact hbit.trans (Bool.and_eq_true_iff.trans (and_congr hmask hpass))
  case or => rintro rfl rfl; exact hbit.trans (Bool.or_eq_true_iff.trans (or_congr hmask hpass))

/-- Settles O38: the stored bytes are those of the byte map, which is the identity. -/
theorem curveg7PreserveIsCopy : Obligations.Curveg7PreserveIsCopy := by
  refine ⟨by decide, fun inv cmb s t ht hdone i hi => ?_⟩
  rw [eq_of_done ht hdone]
  exact (read_curveg7Bytes hi).trans (curveg7Byte_preserve inv cmb s _)

/-- Settles O41: the bins are the counts of O39 and O40, whose premises are the checks that passed; every byte, luma and mask bit
has one value. -/
theorem histogramBinsSumToPixelCount : Obligations.HistogramBinsSumToPixelCount := by
  intro s t
  refine ⟨fun ao ht hdone c hc => ?_, fun ht hdone => ?_⟩
  · obtain ⟨hcount, hsource, hdest, hmeets⟩ := (histChecks_pass_iff ao s).1 (checks_of_done ht hdone)
    obtain ⟨t', ht', -, -, -, hbins⟩ := histWritesChannelCounts ao s hcount hsource hdest hmeets
    obtain rfl : t' = t := by injection ht'.symm.trans ht
    rw [Finset.sum_congr rfl fun v hv => hbins v (Finset.mem_range.1 hv) c hc]
    exact sum_card_filter_eq fun i => BitVec.isLt _
  · obtain ⟨hcount, hsource, hdest, hmeets⟩ := (histg7Checks_pass_iff s).1 (checks_of_done ht hdone)
    obtain ⟨t', ht', -, -, -, hluma, hmask⟩ := histg7WritesLumaAndMaskCounts s hcount hsource hdest hmeets
    obtain rfl : t' = t := by injection ht'.symm.trans ht
    constructor
    · rw [Finset.sum_congr rfl fun v hv => hluma v (Finset.mem_range.1 hv)]
      exact sum_card_filter_eq fun i => Nat.mod_lt _ (by decide)
    · have hsum := sum_card_filter_eq (n := (s32 s.a[1]).toNat) (k := 2)
        (f := fun i => (s.mem.read (u32 s.a[0] + i)).toNat / 128) fun i => Nat.div_lt_of_lt_mul (BitVec.isLt _)
      rw [Finset.sum_range_succ, Finset.sum_range_one, ← hmask 0 (by decide), ← hmask 1 (by decide)] at hsum
      exact hsum

/-- Settles O42: the STATUS of each command's list of checks, each check's failure spelled out. -/
theorem curveCommandsReportFirstFailingCheck : Obligations.CurveCommandsReportFirstFailingCheck := by
  intro lr lg lb la yl inv ao d7 am cmb s rgba packed
  refine ⟨exec_status_of_checks _ ?lutbuild, exec_status_of_checks _ ?curve, exec_status_of_checks _ ?curveg7,
    exec_status_of_checks _ ?hist, exec_status_of_checks _ ?histg7⟩
  case lutbuild =>
    simp only [checks, lutbuildChecks, endStatus_cons, endStatus_nil]
    rfl
  case curve =>
    simp only [checks, curveChecks, endStatus_cons, endStatus_nil, decide_eq_false_iff_not, Int.not_lt,
      Bool.and_eq_false_iff, Bool.not_eq_false', ite_or]
    rfl
  case curveg7 =>
    simp only [checks, curveg7Checks, endStatus_cons, endStatus_nil, decide_eq_false_iff_not, Int.not_lt,
      Bool.and_eq_false_iff, Bool.not_eq_false', legal_eq_false_iff, countedSource_one]
    rfl
  case hist =>
    simp only [checks, histChecks, endStatus_cons, endStatus_nil, decide_eq_false_iff_not, Int.not_lt, Bool.not_eq_false']
    rfl
  case histg7 =>
    simp only [checks, histg7Checks, endStatus_cons, endStatus_nil, decide_eq_false_iff_not, Int.not_lt,
      Bool.not_eq_false', countedSource_one]
    rfl

end Sys2Proof.Machine
end

section
/-! The Convolution Engine (spec/43_convolution.md R180 to R193): images in memory and the commands that store one, the kernels,
the filter in integers, and the two commands' ordered checks with those of the Resampler (R201). -/

namespace Sys2Proof.Machine

/-! ## Images in memory (R20, R50) -/

/-- Channel `c` of pixel `(x, y)` of an image is one byte of it. -/
theorem chan_px (m : Memory) (p w x y : Nat) {c : Nat} (hc : c < 4) :
    (m.px p w x y).chan c = m.read (p + (y * w + x) * 4 + c) := by
  rw [Memory.px, chan_rgba m p _ hc, Nat.mul_comm]

/-- Every byte of a stored image is a channel of the pixel it was made of. -/
theorem read_store_imageBytes (m : Memory) (base : Nat) {w h x y c : Nat} (f : Nat → Nat → Pixel) (hx : x < w) (hy : y < h)
    (hc : c < 4) : (m.store base (imageBytes w h f)).read (base + (y * w + x) * 4 + c) = (f x y).chan c := by
  rw [← chan_px _ base w x y hc, px_store_imageBytes m base w h x y f hx hy]

/-- The buffer of the pixels at `p` is the bytes at `p`. -/
theorem pixelBytes_rgba (m : Memory) (p n : Nat) : pixelBytes n (m.rgba p) = m.readBytes p (4 * n) := by
  induction n with
  | zero => rfl
  | succ n ih =>
    rw [pixelBytes_succ, ih]
    simp [Memory.readBytes, Nat.mul_succ, List.range_succ, Pixel.bytes, Memory.rgba, Nat.add_assoc]

/-- The buffer of an image's own pixels is the image. -/
theorem imageBytes_px (m : Memory) (p w h : Nat) : imageBytes w h (m.px p w) = m.readBytes p (4 * (w * h)) := by
  rw [← pixelBytes_rgba, imageBytes]
  exact pixelBytes_congr fun i _ => by rw [Memory.px, Nat.div_add_mod']

/-- What a command does that passes its checks, outputs an image and returns no result. -/
theorem exec_of_imageBytes {i : Instr} {s : State} {w h : Nat} {f : Nat → Nat → Pixel} (hpass : ∀ c ∈ checks i s, c.1 = true)
    (hout : output i s = imageBytes w h f) (hres : results i s = s.r) :
    ∃ t, exec i s = .next t ∧ Frame (destination i s) s t ∧ t.status = 0x00010000#32 ∧ t.r = s.r
      ∧ ∀ y < h, ∀ x < w, ∀ c < 4, t.mem.read ((destination i s).base + (y * w + x) * 4 + c) = (f x y).chan c := by
  refine ⟨_, exec_of_checks hpass, frame_wrote i s _ _, rfl, hres, fun y hy x hx c hc => ?_⟩
  rw [ended_mem, wrote_mem, hout]
  exact read_store_imageBytes s.mem _ f hx hy hc

/-! ## Kernels (R184, R187, R188) -/

theorem kernelDivisor_ne_zero (given : Int) (coef : Vector Int 9) : kernelDivisor given coef ≠ 0 := by
  simp only [kernelDivisor]
  split_ifs with hgiven hsum
  · exact hgiven
  · exact hsum
  · decide

theorem selectKernel_div_ne_zero (s : State) (ksel : KernelSel) : (selectKernel s ksel).div ≠ 0 := by
  cases ksel with
  | custom => exact kernelDivisor_ne_zero _ _
  | _ => simp [selectKernel]

/-- The sum of a custom kernel's coefficients, over the kernel registers (R184). -/
theorem customKernel_sum (s : State) : (s.k.map s32).toList.sum = ∑ n : Fin 9, s32 s.k[n] := by
  rw [← List.sum_ofFn]
  congr 1
  exact List.ext_getElem (by simp) fun i _ _ => by simp [-List.ofFn_succ]

/-! ## The filter in integers (R180 to R183) -/

/-- A channel of the clamp-to-edge sample is a byte of the image (R180). -/
theorem chan_sample (m : Memory) (p : Nat) {w h c : Nat} (hw : 0 < w) (hh : 0 < h) (hc : c < 4) (x y : Int) :
    (sample m p w h x y).chan c
      = m.read (p + ((max 0 (min y (h - 1))).toNat * w + (max 0 (min x (w - 1))).toNat) * 4 + c) := by
  rw [sample, chan_px _ _ _ _ _ hc, clamp_eq_max_min (by omega), clamp_eq_max_min (by omega)]

/-- A sample inside the image is the pixel there (R180). -/
theorem sample_of_lt (m : Memory) (p : Nat) {w h x y : Nat} (hx : x < w) (hy : y < h) :
    sample m p w h x y = m.px p w x y := by
  rw [sample, clamp_of_mem (by omega) (by omega), clamp_of_mem (by omega) (by omega), Int.toNat_natCast, Int.toNat_natCast]

/-- The nine terms of the sum, row by row, for any reading `v` of the neighbour at an offset (R181, R182). -/
theorem convAcc_eq {m : Memory} {p w h : Nat} {chan : Pixel → Byte} {x y : Nat} {v : Int → Int → Int}
    (hv : ∀ dx dy, ((chan (sample m p w h (x + dx) (y + dy))).toNat : Int) = v dx dy) (ker : Kernel) :
    convAcc m p w h ker chan x y
      = ker.coef[0] * v (-1) (-1) + ker.coef[1] * v 0 (-1) + ker.coef[2] * v 1 (-1)
        + ker.coef[3] * v (-1) 0 + ker.coef[4] * v 0 0 + ker.coef[5] * v 1 0
        + ker.coef[6] * v (-1) 1 + ker.coef[7] * v 0 1 + ker.coef[8] * v 1 1 := by
  have hterm : ∀ k : Fin 9, ((chan (sample m p w h ((x : Int) + (k.val % 3 : Nat) - 1)
      ((y : Int) + (k.val / 3 : Nat) - 1))).toNat : Int) = v ((k.val % 3 : Nat) - 1) ((k.val / 3 : Nat) - 1) := fun k => by
    rw [← hv, Int.add_sub_assoc, Int.add_sub_assoc]
  simp only [convAcc, hterm, ← List.ofFn_eq_map, List.sum_ofFn, Fin.sum_univ_succ]
  simp [add_assoc]

/-- The integer form of `rnd` on a quotient by a divisor of either sign (R17, R182). -/
theorem rnd_div_of_ne_zero (n : Int) {d : Int} (hd : d ≠ 0) :
    rnd ((n : Rat) / d) = if 0 < d then (2 * n + d) / (2 * d) else (-2 * n - d) / (-2 * d) := by
  split_ifs with hpos
  · exact rnd_div n d hpos
  · rw [← neg_div_neg_eq, ← Int.cast_neg, ← Int.cast_neg, rnd_div (-n) (-d) (by omega)]
    congr 1 <;> ring

/-- The clamp puts the filtered value in a byte's range (R183). -/
theorem toNat_convolveChannel (m : Memory) (p w h : Nat) (ker : Kernel) (chan : Pixel → Byte) (x y : Nat) :
    ((convolveChannel m p w h ker chan x y).toNat : Int)
      = max 0 (min (rnd ((convAcc m p w h ker chan x y : Rat) / ker.div) + ker.bias) 255) := by
  obtain ⟨hlo, hhi⟩ := clamp_mem (v := rnd ((convAcc m p w h ker chan x y : Rat) / ker.div) + ker.bias)
    (show (0 : Int) ≤ 255 by decide)
  rw [convolveChannel, toNat_byteOf hlo hhi, clamp_eq_max_min (by decide)]

/-! ## The identity preset (R193) -/

/-- The identity kernel gives each channel back. -/
theorem convolveChannel_identity (s : State) (m : Memory) (p : Nat) {w h x y : Nat} (hx : x < w) (hy : y < h)
    (chan : Pixel → Byte) :
    convolveChannel m p w h (selectKernel s .identity) chan x y = chan (m.px p w x y) := by
  have hacc : convAcc m p w h (selectKernel s .identity) chan x y = (chan (m.px p w x y)).toNat := by
    rw [convAcc_eq (fun _ _ => rfl)]
    simp [selectKernel, sample_of_lt m p hx hy]
  have hbyte : (chan (m.px p w x y)).toNat < 256 := BitVec.isLt _
  rw [convolveChannel, hacc]
  simp only [selectKernel, Int.cast_one, div_one, rnd_intCast, add_zero]
  rw [clamp_of_mem (by omega) (by omega), byteOf_toNat]

/-- With the identity preset CONVRGB's output is the image (R193). -/
theorem convrgbBytes_identity (s : State) :
    convrgbBytes .identity s = s.mem.readBytes (u32 s.a[0]) (4 * (convWidth s * convHeight s)) := by
  rw [← imageBytes_px]
  exact imageBytes_congr fun x hx y hy => by simp only [convrgbOutput, convolveChannel_identity s s.mem _ hx hy]

/-- With the identity preset CONVA's output is the image (R193). -/
theorem convaBytes_identity (s : State) :
    convaBytes .identity s = s.mem.readBytes (u32 s.a[0]) (4 * (convWidth s * convHeight s)) := by
  rw [← imageBytes_px]
  exact imageBytes_congr fun x hx y hy => by simp only [convaOutput, convolveChannel_identity s s.mem _ hx hy]

/-- A stored copy of the bytes at `p` reads as those bytes. -/
theorem read_store_readBytes (m : Memory) (base p : Nat) {n i : Nat} (hi : i < n) :
    (m.store base (m.readBytes p n)).read (base + i) = m.read (p + i) := by
  rw [read_store_mem (by simpa using hi)]
  simp [Memory.readBytes]

/-! ## The commands (R189, R190) and their checks (R191) -/

theorem kernelLegal_eq_false_iff (ksel : KernelSel) : ksel.legal = false ↔ ksel = .reserved7 := by
  cases ksel <;> simp [KernelSel.legal]

/-- The checks of a convolution all pass exactly where its kernel is legal, its image has a size, and its ranges are valid and
apart (R191). -/
theorem convChecks_pass_iff (ksel : KernelSel) (s : State) :
    (∀ c ∈ convChecks ksel s, c.1 = true) ↔
      ksel ≠ .reserved7 ∧ (0 < s32 s.a[1] ∧ 0 < s32 s.a[2]) ∧ (convSource s).valid s.mem = true
        ∧ (convDest s).valid s.mem = true ∧ (convDest s).meets (convSource s) = false := by
  rw [ne_eq, ← kernelLegal_eq_false_iff, Bool.not_eq_false]
  simp [convChecks]

/-- A channel of the colour CONVRGB writes is filtered (R189). -/
theorem chan_convrgbOutput_colour (ksel : KernelSel) (s : State) (x y : Nat) {c : Nat} (hc : c < 3) :
    (convrgbOutput ksel s x y).chan c
      = convolveChannel s.mem (u32 s.a[0]) (convWidth s) (convHeight s) (selectKernel s ksel) (fun q => q.chan c) x y := by
  interval_cases c <;> rfl

/-- A channel of the colour CONVA writes is copied (R190). -/
theorem chan_convaOutput_colour (ksel : KernelSel) (s : State) (x y : Nat) {c : Nat} (hc : c < 3) :
    (convaOutput ksel s x y).chan c = (s.mem.px (u32 s.a[0]) (convWidth s) x y).chan c := by
  interval_cases c <;> rfl

/-! ## The statements -/

/-- Settles O44: the nine samples are bytes of the image, and the rounded quotient is known in integers. -/
theorem convolveChannelInIntegers : Obligations.ConvolveChannelInIntegers := by
  intro m p w h ker c x y hx hy hc hdiv at_ acc quotient
  have hacc : convAcc m p w h ker (fun q => q.chan c) x y = acc :=
    convAcc_eq (fun dx dy => by rw [chan_sample m p (by omega) (by omega) hc]) ker
  rw [toNat_convolveChannel, hacc, rnd_div_of_ne_zero acc hdiv]

/-- Settles O45: every check passes, and each pixel of the stored image has its colour filtered and its alpha copied. -/
theorem convrgbFiltersColour : Obligations.ConvrgbFiltersColour := by
  intro ksel s hksel hwidth hheight hsource hdest hmeets w h
  have hpass : ∀ c ∈ checks (.convrgb ksel) s, c.1 = true :=
    (convChecks_pass_iff ksel s).2 ⟨hksel, ⟨hwidth, hheight⟩, hsource, hdest, hmeets⟩
  obtain ⟨t, ht, hframe, hstatus, hr, hread⟩ := exec_of_imageBytes hpass rfl rfl
  refine ⟨t, ht, hframe, hstatus, hr, fun y hy x hx => ⟨fun c hc => ?_, ?_⟩⟩
  · exact (hread y hy x hx c (by omega)).trans (chan_convrgbOutput_colour ksel s x y hc)
  · exact (hread y hy x hx 3 (by decide)).trans (chan_px s.mem _ _ x y (c := 3) (by decide))

/-- Settles O46: every check passes, and each pixel of the stored image has its colour copied and its alpha filtered. -/
theorem convaFiltersAlpha : Obligations.ConvaFiltersAlpha := by
  intro ksel s hksel hwidth hheight hsource hdest hmeets w h
  have hpass : ∀ c ∈ checks (.conva ksel) s, c.1 = true :=
    (convChecks_pass_iff ksel s).2 ⟨hksel, ⟨hwidth, hheight⟩, hsource, hdest, hmeets⟩
  obtain ⟨t, ht, hframe, hstatus, hr, hread⟩ := exec_of_imageBytes hpass rfl rfl
  refine ⟨t, ht, hframe, hstatus, hr, fun y hy x hx => ⟨fun c hc => ?_, ?_⟩⟩
  · have hcolour := (chan_convaOutput_colour ksel s x y hc).trans (chan_px s.mem _ _ x y (by omega))
    exact (hread y hy x hx c (by omega)).trans hcolour
  · exact hread y hy x hx 3 (by decide)

/-- Settles O47: with the identity kernel both commands store the image they read. -/
theorem identityKernelCopiesImage : Obligations.IdentityKernelCopiesImage := by
  intro s t ht hdone i hi
  have hmem : t.mem = s.mem.store (u32 s.a[3]) (s.mem.readBytes (u32 s.a[0]) (4 * (convWidth s * convHeight s))) := by
    obtain ht | ht := ht
    · rw [eq_of_done ht hdone, ← convrgbBytes_identity]
      rfl
    · rw [eq_of_done ht hdone, ← convaBytes_identity]
      rfl
  rw [hmem]
  exact read_store_readBytes s.mem _ _ hi

/-- Settles O43: the presets are R187's table, and the custom divisor is given, summed or 1. -/
theorem kernelSelection : Obligations.KernelSelection := by
  intro s
  refine ⟨fun n h => Vector.getElem_map _ _, rfl, ?_, rfl, rfl, rfl, rfl, rfl, rfl, selectKernel_div_ne_zero s⟩
  rw [← customKernel_sum]
  rfl

/-- Settles O52: the STATUS of each command's list of checks, each check's failure spelled out. -/
theorem imageCommandsReportFirstFailingCheck : Obligations.ImageCommandsReportFirstFailingCheck := by
  intro ksel s
  refine ⟨fun i hi => exec_status_of_checks i ?convolution, fun i hi => exec_status_of_checks i ?resampling⟩
  case convolution =>
    have hchecks : checks i s = convChecks ksel s := by obtain rfl | rfl := hi <;> rfl
    simp only [hchecks, convChecks, endStatus_cons, endStatus_nil, kernelLegal_eq_false_iff, Bool.and_eq_false_iff,
      decide_eq_false_iff_not, Int.not_lt, Bool.not_eq_false']
    rfl
  case resampling =>
    have hchecks : checks i s = resampleChecks s := by obtain rfl | rfl := hi <;> rfl
    simp only [hchecks, resampleChecks, endStatus_cons, endStatus_nil, Bool.and_eq_false_iff, decide_eq_false_iff_not,
      Int.not_lt, Bool.not_eq_false']
    rfl

end Sys2Proof.Machine
end

section
/-! The Resampler (spec/44_resampler.md R200 to R208) and the interpolations RENDER shares with it (spec/45_compositor.md R215 to
R228): the bilinear blend in integers and its bounds, the two commands' ordered checks, and the canvas RENDER stores. -/

namespace Sys2Proof.Machine

/-! ## Rounded quotients of natural numbers (R17) -/

/-- `rnd` of a quotient of natural numbers. -/
theorem rnd_natDiv (n : Nat) {d : Nat} (hd : 0 < d) : rnd ((n : Rat) / d) = ((2 * n + d) / (2 * d) : Nat) := by
  have hint := rnd_div n d (Int.natCast_pos.2 hd)
  push_cast at hint ⊢
  exact hint

/-- A quotient between two natural numbers rounds to an integer between them. -/
theorem rnd_natDiv_mem {n d lo hi : Nat} (hd : 0 < d) (h : lo * d ≤ n ∧ n ≤ hi * d) :
    (lo : Int) ≤ rnd ((n : Rat) / d) ∧ rnd ((n : Rat) / d) ≤ hi := by
  obtain ⟨hlo, hhi⟩ := h
  have hpos : (0 : Rat) < d := Nat.cast_pos.2 hd
  refine rnd_mem_Icc ?_ ?_
  · rw [le_div_iff₀ hpos]
    exact_mod_cast hlo
  · rw [div_le_iff₀ hpos]
    exact_mod_cast hhi

/-! ## The bilinear blend in integers (R205 to R207) -/

/-- The blend of four neighbours before its one division by `dw*dh`: `rx` and `ry` are the remainders of the source coordinates
(R205, R207). -/
def blendSum (dw dh rx ry p00 p10 p01 p11 : Nat) : Nat :=
  (dw - rx) * (dh - ry) * p00 + rx * (dh - ry) * p10 + (dw - rx) * ry * p01 + rx * ry * p11

section
variable {dw dh rx ry : Nat}

/-- The four weights add up to `dw*dh`, so the blend lies between any bounds of its neighbours. -/
theorem blendSum_mem {lo hi p00 p10 p01 p11 : Nat} (hrx : rx ≤ dw) (hry : ry ≤ dh) (h00 : lo ≤ p00 ∧ p00 ≤ hi)
    (h10 : lo ≤ p10 ∧ p10 ≤ hi) (h01 : lo ≤ p01 ∧ p01 ≤ hi) (h11 : lo ≤ p11 ∧ p11 ≤ hi) :
    lo * (dw * dh) ≤ blendSum dw dh rx ry p00 p10 p01 p11 ∧ blendSum dw dh rx ry p00 p10 p01 p11 ≤ hi * (dw * dh) := by
  have hconst : ∀ v, v * (dw * dh) = blendSum dw dh rx ry v v v v := by
    obtain ⟨ux, rfl⟩ := Nat.exists_eq_add_of_le hrx
    obtain ⟨uy, rfl⟩ := Nat.exists_eq_add_of_le hry
    intro v
    simp only [blendSum, Nat.add_sub_cancel_left]
    ring
  rw [hconst, hconst]
  unfold blendSum
  constructor <;> gcongr <;> omega

/-- The exact blend of R207 over its common denominator. -/
theorem blend_eq_div (hrx : rx < dw) (hry : ry < dh) (p00 p10 p01 p11 : Nat) :
    (1 - (rx : Rat) / dw) * (1 - (ry : Rat) / dh) * p00 + (rx : Rat) / dw * (1 - (ry : Rat) / dh) * p10
        + (1 - (rx : Rat) / dw) * ((ry : Rat) / dh) * p01 + (rx : Rat) / dw * ((ry : Rat) / dh) * p11
      = (blendSum dw dh rx ry p00 p10 p01 p11 : Rat) / (dw * dh : Nat) := by
  have hdw : (dw : Rat) ≠ 0 := Nat.cast_ne_zero.2 (by omega)
  have hdh : (dh : Rat) ≠ 0 := Nat.cast_ne_zero.2 (by omega)
  unfold blendSum
  push_cast [Nat.cast_sub hrx.le, Nat.cast_sub hry.le]
  field_simp

/-- The rounded blend of four bytes is a byte (R207). -/
theorem toNat_bilinearBlend (hrx : rx < dw) (hry : ry < dh) (p00 p10 p01 p11 : Byte) :
    ((bilinearBlend ((rx : Rat) / dw) ((ry : Rat) / dh) p00 p10 p01 p11).toNat : Int)
      = rnd ((blendSum dw dh rx ry p00.toNat p10.toNat p01.toNat p11.toNat : Rat) / (dw * dh : Nat)) := by
  have hbyte : ∀ p : Byte, 0 ≤ p.toNat ∧ p.toNat ≤ 255 := fun p => ⟨Nat.zero_le _, Nat.le_of_lt_succ p.isLt⟩
  obtain ⟨hlo, hhi⟩ := rnd_natDiv_mem (Nat.mul_pos (Nat.zero_lt_of_lt hrx) (Nat.zero_lt_of_lt hry))
    (blendSum_mem hrx.le hry.le (hbyte p00) (hbyte p10) (hbyte p01) (hbyte p11))
  rw [bilinearBlend, blend_eq_div hrx hry, toNat_byteOf hlo hhi]

end

/-! ## Pixels of a bilinear image (R204 to R207) -/

/-- `blendSum` of the four neighbours of destination pixel `(x, y)`, `v` being the channel's value at each source pixel (R206). -/
def bilinearSum (v : Nat → Nat → Nat) (sw sh dw dh x y : Nat) : Nat :=
  let x0 := x * (sw - 1) / dw
  let x1 := min (x0 + 1) (sw - 1)
  let y0 := y * (sh - 1) / dh
  let y1 := min (y0 + 1) (sh - 1)
  blendSum dw dh (x * (sw - 1) % dw) (y * (sh - 1) % dh) (v x0 y0) (v x1 y0) (v x0 y1) (v x1 y1)

/-- The four neighbours lie inside the source, so their blend keeps to the bounds of the source (R206, R208). -/
theorem bilinearSum_mem {v : Nat → Nat → Nat} {sw sh dw dh x y lo hi : Nat} (hsw : 0 < sw) (hsh : 0 < sh) (hx : x < dw)
    (hy : y < dh) (hv : ∀ x < sw, ∀ y < sh, lo ≤ v x y ∧ v x y ≤ hi) :
    lo * (dw * dh) ≤ bilinearSum v sw sh dw dh x y ∧ bilinearSum v sw sh dw dh x y ≤ hi * (dw * dh) := by
  have hx0 : x * (sw - 1) / dw ≤ sw - 1 := Nat.div_le_of_le_mul (Nat.mul_le_mul_right _ hx.le)
  have hy0 : y * (sh - 1) / dh ≤ sh - 1 := Nat.div_le_of_le_mul (Nat.mul_le_mul_right _ hy.le)
  exact blendSum_mem (Nat.mod_lt _ (by omega)).le (Nat.mod_lt _ (by omega)).le (hv _ (by omega) _ (by omega))
    (hv _ (by omega) _ (by omega)) (hv _ (by omega) _ (by omega)) (hv _ (by omega) _ (by omega))

section
variable {src : Nat → Nat → Pixel} {sw sh dw dh x y c : Nat}

theorem chan_each (f : (Pixel → Byte) → Byte) (hc : c < 4) : (Pixel.each f).chan c = f fun q => q.chan c := by
  interval_cases c <;> rfl

/-- A channel of a bilinear pixel is the rounded blend of that channel of its four neighbours (R207). -/
theorem toNat_chan_bilinear (hc : c < 4) (hdw : 0 < dw) (hdh : 0 < dh) :
    (((bilinear src sw sh dw dh x y).chan c).toNat : Int)
      = rnd ((bilinearSum (fun x y => ((src x y).chan c).toNat) sw sh dw dh x y : Rat) / (dw * dh : Nat)) := by
  rw [bilinear, chan_each _ hc]
  exact toNat_bilinearBlend (Nat.mod_lt _ hdw) (Nat.mod_lt _ hdh) _ _ _ _

/-- A channel of a bilinear pixel in integers (R207). -/
theorem toNat_chan_bilinear_eq_div (hc : c < 4) (hdw : 0 < dw) (hdh : 0 < dh) :
    ((bilinear src sw sh dw dh x y).chan c).toNat
      = (2 * bilinearSum (fun x y => ((src x y).chan c).toNat) sw sh dw dh x y + dw * dh) / (2 * (dw * dh)) :=
  Int.ofNat_inj.1 ((toNat_chan_bilinear hc hdw hdh).trans (rnd_natDiv _ (Nat.mul_pos hdw hdh)))

/-- A bilinear pixel keeps to the bounds of the source's channel (R207, R208). -/
theorem toNat_chan_bilinear_mem {lo hi : Nat} (hc : c < 4) (hsw : 0 < sw) (hsh : 0 < sh) (hx : x < dw) (hy : y < dh)
    (hsrc : ∀ x < sw, ∀ y < sh, lo ≤ ((src x y).chan c).toNat ∧ ((src x y).chan c).toNat ≤ hi) :
    lo ≤ ((bilinear src sw sh dw dh x y).chan c).toNat ∧ ((bilinear src sw sh dw dh x y).chan c).toNat ≤ hi := by
  have hdw : 0 < dw := Nat.zero_lt_of_lt hx
  have hdh : 0 < dh := Nat.zero_lt_of_lt hy
  have hmem := rnd_natDiv_mem (Nat.mul_pos hdw hdh) (bilinearSum_mem hsw hsh hx hy hsrc)
  rw [← toNat_chan_bilinear hc hdw hdh] at hmem
  exact_mod_cast hmem

end

/-! ## RSNN and RSBL (R201 to R204) -/

/-- The checks of a resampling all pass exactly where its target and source have a size, and its ranges are valid and apart
(R201). -/
theorem resampleChecks_pass_iff (s : State) :
    (∀ c ∈ resampleChecks s, c.1 = true) ↔
      (0 < s32 s.a[4] ∧ 0 < s32 s.a[5]) ∧ (0 < s32 s.a[1] ∧ 0 < s32 s.a[2]) ∧ (resampleRange s).valid s.mem = true
        ∧ (resampleDest s).valid s.mem = true ∧ (resampleDest s).meets (resampleRange s) = false := by
  simp [resampleChecks]

/-- Scaling to the same size is the identity on a coordinate of the image (R203). -/
theorem nearest_sameSize (src : Nat → Nat → Pixel) {w h x y : Nat} (hx : x < w) (hy : y < h) :
    nearest src w h w h x y = src x y := by
  rw [nearest, Nat.mul_div_cancel x (Nat.zero_lt_of_lt hx), Nat.mul_div_cancel y (Nat.zero_lt_of_lt hy)]

/-- RSNN to the source's own size outputs the image (R203). -/
theorem rsnnBytes_sameSize {s : State} (hw : s.a[4] = s.a[1]) (hh : s.a[5] = s.a[2]) :
    rsnnBytes s = s.mem.readBytes (u32 s.a[0]) (4 * ((resampleSizes s).sw * (resampleSizes s).sh)) := by
  have hdw : (resampleSizes s).dw = (resampleSizes s).sw := congrArg (fun w => (s32 w).toNat) hw
  have hdh : (resampleSizes s).dh = (resampleSizes s).sh := congrArg (fun w => (s32 w).toNat) hh
  rw [← imageBytes_px, rsnnBytes, hdw, hdh]
  refine imageBytes_congr fun x hx y hy => ?_
  rw [rsnnOutput, hdw, hdh]
  exact nearest_sameSize _ hx hy

/-- Pixel `i` of the image RSBL stores, at its place in the target (R20, R204). -/
theorem rgba_of_rsbl {s t : State} (ht : exec .rsbl s = .next t) (hdone : t.status = 0x00010000#32) {i : Nat}
    (hi : i < (resampleSizes s).dw * (resampleSizes s).dh) :
    t.mem.rgba (u32 s.a[3]) i = rsblOutput s (i % (resampleSizes s).dw) (i / (resampleSizes s).dw) := by
  rw [eq_of_done ht hdone]
  exact rgba_store_pixelBytes s.mem (u32 s.a[3]) _ i _ hi

/-! ## RENDER (R215, R216) -/

/-- The placement RENDER reports is that of the last layer it drew. -/
theorem lastPlacement_of_getLast? {s : State} {l : Layer} (h : (drawnLayers s).getLast? = some l) :
    lastPlacement s = place (renderScale s) (canvasW s) (canvasH s) l := by
  rw [lastPlacement, h]

/-- The placement RENDER reports where it drew no layer. -/
theorem lastPlacement_of_nil {s : State} (h : drawnLayers s = []) : lastPlacement s = Placement.zero := by
  rw [lastPlacement, h]
  rfl

/-- The last four results of RENDER are its placement (R216). -/
theorem renderResults_of_lastPlacement {s : State} {p : Placement} (h : lastPlacement s = p) :
    (renderResults s)[2] = wordOf p.dx ∧ (renderResults s)[3] = wordOf p.dy ∧ (renderResults s)[4] = wordOf p.drawW
      ∧ (renderResults s)[5] = wordOf p.drawH := by
  subst h
  exact ⟨rfl, rfl, rfl, rfl⟩

/-- With BL = 0 a layer is resampled as RSNN does (R202, R224). -/
theorem layerPixel_nearest (m : Memory) (l : Layer) (dw dh u v : Nat) :
    layerPixel m false l dw dh u v
      = normPixel m l false (v * l.height.toNat / dh * l.width.toNat + u * l.width.toNat / dw) := rfl

/-- With BL = 1 a layer is resampled as RSBL does (R207, R225). -/
theorem layerPixel_bilinear (m : Memory) (l : Layer) (dw dh u v : Nat) :
    layerPixel m true l dw dh u v
      = bilinear (fun x y => normPixel m l false (y * l.width.toNat + x)) l.width.toNat l.height.toNat dw dh u v := rfl

/-- The checks of RENDER all pass exactly where its table and its destination are valid and apart (R217). -/
theorem renderChecks_pass_iff (s : State) :
    (∀ c ∈ renderChecks s, c.1 = true) ↔
      (tableRange s).valid s.mem = true ∧ (renderDest s).valid s.mem = true
        ∧ (renderDest s).meets (tableRange s) = false := by
  simp [renderChecks]

/-! ## The statements -/

/-- Settles O48: every check passes, and each byte of the stored image is a channel of the nearest source pixel. -/
theorem rsnnCopiesNearestPixel : Obligations.RsnnCopiesNearestPixel := by
  intro s hdw hdh hsw hsh hsource hdest hmeets sw sh dw dh
  have hpass : ∀ c ∈ checks .rsnn s, c.1 = true :=
    (resampleChecks_pass_iff s).2 ⟨⟨hdw, hdh⟩, ⟨hsw, hsh⟩, hsource, hdest, hmeets⟩
  obtain ⟨t, ht, hframe, hstatus, hr, hread⟩ := exec_of_imageBytes hpass rfl rfl
  exact ⟨t, ht, hframe, hstatus, hr, fun y hy x hx c hc => (hread y hy x hx c hc).trans (chan_px s.mem _ sw _ _ hc)⟩

/-- Settles O49: a coordinate below the target's side scales below the source's, and RSNN to the same size stores the image it
reads. -/
theorem rsnnSameSizeCopies : Obligations.RsnnSameSizeCopies := by
  refine ⟨fun x sw dw hx hsw => Nat.div_lt_of_lt_mul (Nat.mul_lt_mul_of_pos_right hx hsw),
    fun s t ht hdone hw hh i hi => ?_⟩
  have hmem : t.mem = s.mem.store (u32 s.a[3])
      (s.mem.readBytes (u32 s.a[0]) (4 * ((resampleSizes s).sw * (resampleSizes s).sh))) := by
    rw [eq_of_done ht hdone, ← rsnnBytes_sameSize hw hh]
    rfl
  rw [hmem]
  exact read_store_readBytes s.mem _ _ hi

/-- Settles O50: every check passes, and each byte of the stored image is the blend of its four neighbours, each a byte of the
source. -/
theorem rsblBlendsFourNeighbours : Obligations.RsblBlendsFourNeighbours := by
  intro s hdw hdh hsw hsh hsource hdest hmeets sw sh dw dh
  have hpass : ∀ c ∈ checks .rsbl s, c.1 = true :=
    (resampleChecks_pass_iff s).2 ⟨⟨hdw, hdh⟩, ⟨hsw, hsh⟩, hsource, hdest, hmeets⟩
  obtain ⟨t, ht, hframe, hstatus, hr, hread⟩ := exec_of_imageBytes hpass rfl rfl
  refine ⟨t, ht, hframe, hstatus, hr, fun y hy x hx c hc => ?_⟩
  intro x0 rx x1 y0 ry y1 px num
  have hpx : (fun x y => ((resampleSource s x y).chan c).toNat) = px :=
    funext₂ fun x y => congrArg BitVec.toNat (chan_px s.mem (u32 s.a[0]) sw x y hc)
  calc (t.mem.read (u32 s.a[3] + (y * dw + x) * 4 + c)).toNat
      = ((bilinear (resampleSource s) sw sh dw dh x y).chan c).toNat := congrArg BitVec.toNat (hread y hy x hx c hc)
    _ = (2 * bilinearSum px sw sh dw dh x y + dw * dh) / (2 * (dw * dh)) := by
      rw [toNat_chan_bilinear_eq_div hc (Nat.zero_lt_of_lt hx) (Nat.zero_lt_of_lt hy), hpx]

/-- Settles O51: each pixel RSBL stores is a blend of source pixels. -/
theorem rsblStaysWithinSourceValues : Obligations.RsblStaysWithinSourceValues := by
  intro s t c lo hi ht hdone hc hsource i hlt
  obtain ⟨hsw, hsh⟩ := resample_source_pos (firstFailing_eq_none.2 (checks_of_done ht hdone))
  have hbounds : ∀ x < (resampleSizes s).sw, ∀ y < (resampleSizes s).sh,
      lo ≤ ((resampleSource s x y).chan c).toNat ∧ ((resampleSource s x y).chan c).toNat ≤ hi := fun x hx y hy => by
    rw [resampleSource, Memory.px, chan_rgba _ _ _ hc]
    exact hsource _ (pixelIndex_lt hx hy)
  have hw : 0 < (resampleSizes s).dw := Nat.pos_of_mul_pos_right (Nat.zero_lt_of_lt hlt)
  rw [← chan_rgba _ _ _ hc, rgba_of_rsbl ht hdone hlt]
  exact toNat_chan_bilinear_mem hc hsw hsh (Nat.mod_lt i hw) (Nat.div_lt_of_lt_mul hlt) hbounds

/-- Settles O53: every check passes, the stored canvas and the results are those of the definitions, and a bilinear layer's
channels are known in integers. -/
theorem renderCompositesDrawnLayers : Obligations.RenderCompositesDrawnLayers := by
  constructor
  · intro bl s htable hdest hmeets scale pl
    have hpass : ∀ c ∈ checks (.render bl) s, c.1 = true := (renderChecks_pass_iff s).2 ⟨htable, hdest, hmeets⟩
    exact ⟨_, exec_of_checks hpass, frame_wrote (.render bl) s _ _, rfl, rfl, rfl,
      fun l hl => renderResults_of_lastPlacement (lastPlacement_of_getLast? hl),
      fun hnil => renderResults_of_lastPlacement (lastPlacement_of_nil hnil),
      fun cy hy cx hx => px_store_imageBytes s.mem _ _ _ cx cy (canvasPixel s bl) hx hy⟩
  · intro m l dw dh u v hdw hdh w h
    refine ⟨layerPixel_nearest m l dw dh u v, fun c hc => ?_⟩
    rw [layerPixel_bilinear]
    exact toNat_chan_bilinear_eq_div hc hdw hdh

end Sys2Proof.Machine
end

section
/-! The compositing step (spec/45_compositor.md R229, R230, R232, R235): its alpha and its colour as exact fractions of `[0, 1]`, and
the one rounding that makes a byte of each. -/

namespace Sys2Proof.Machine

/-! ## Channels as fractions (R229, R232) -/

theorem unit_mem (v : Byte) : unit v ∈ Set.Icc 0 1 := by
  have hv : (v.toNat : Rat) ≤ 255 := by exact_mod_cast Nat.le_of_lt_succ v.isLt
  exact ⟨div_nonneg (Nat.cast_nonneg _) (by norm_num), div_le_one_of_le₀ hv (by norm_num)⟩

theorem unit_eq_zero_iff (v : Byte) : unit v = 0 ↔ v = 0#8 := by
  simp [unit, ← BitVec.toNat_inj]

@[simp] theorem unit_zero : unit 0#8 = 0 := (unit_eq_zero_iff _).2 rfl

@[simp] theorem unit_full : unit 255#8 = 1 := div_self (by norm_num)

/-- The byte of a fraction: 255 times it, rounded once half up (R232). -/
def quantized (q : Rat) : Byte := byteOf (rnd (255 * q))

/-- The byte of a fraction of `[0, 1]` is its rounding, no clamp needed (R232). -/
theorem toNat_quantized {q : Rat} (hq : q ∈ Set.Icc 0 1) : ((quantized q).toNat : Int) = ⌊255 * q + 1 / 2⌋ := by
  obtain ⟨hq0, hq1⟩ := hq
  obtain ⟨hlo, hhi⟩ := rnd_mem_Icc (q := 255 * q) (lo := 0) (hi := 255) (by push_cast; linarith) (by push_cast; linarith)
  exact toNat_byteOf hlo hhi

/-- A channel survives the way to a fraction and back. -/
@[simp] theorem quantized_unit (v : Byte) : quantized (unit v) = v := by
  rw [quantized, unit, mul_div_cancel₀ _ (by norm_num), rnd_natCast, byteOf_toNat]

@[simp] theorem quantized_one : quantized 1 = 255#8 := unit_full ▸ quantized_unit 255#8

/-! ## Blending (R230) -/

theorem mul_mem_unit {p q : Rat} (hp : p ∈ Set.Icc 0 1) (hq : q ∈ Set.Icc 0 1) : p * q ∈ Set.Icc 0 1 :=
  ⟨mul_nonneg hp.1 hq.1, mul_le_one₀ hp.2 hq.1 hq.2⟩

/-- A mixture of two fractions is a fraction. -/
theorem mix_mem_unit {t p q : Rat} (ht : t ∈ Set.Icc 0 1) (hp : p ∈ Set.Icc 0 1) (hq : q ∈ Set.Icc 0 1) :
    (1 - t) * p + t * q ∈ Set.Icc 0 1 :=
  convex_Icc 0 1 hp hq (sub_nonneg.2 ht.2) ht.1 (sub_add_cancel 1 t)

/-- Every mode blends two fractions into a fraction. -/
theorem blend_mem (mode : BlendMode) {cb cs : Rat} (hb : cb ∈ Set.Icc 0 1) (hs : cs ∈ Set.Icc 0 1) :
    blend mode cb cs ∈ Set.Icc 0 1 := by
  cases mode with
  | normal => exact hs
  | multiply => exact mul_mem_unit hb hs
  | screen =>
    rw [show blend .screen cb cs = (1 - cb) * cs + cb * 1 by simp only [blend]; ring]
    exact mix_mem_unit hb hs (Set.right_mem_Icc.2 zero_le_one)
  | overlay =>
    simp only [blend]
    split_ifs with hhalf
    · exact mul_mem_unit ⟨by linarith [hb.1], by linarith⟩ hs
    · exact Set.Icc.one_sub_mem (mul_mem_unit ⟨by linarith [hb.2], by linarith⟩ (Set.Icc.one_sub_mem hs))

/-! ## The step before its rounding (R229) -/

/-- The exact alpha of a source of alpha `sa` over a backdrop of alpha `ba`. -/
def overAlpha (sa ba : Rat) : Rat := sa + ba * (1 - sa)

/-- The exact colour of a source channel `cs` over a backdrop channel `cb`. -/
def overColour (mode : BlendMode) (sa ba cb cs : Rat) : Rat :=
  (sa * ((1 - ba) * cs + ba * blend mode cb cs) + (1 - sa) * ba * cb) / overAlpha sa ba

@[simp] theorem overAlpha_zero_left (ba : Rat) : overAlpha 0 ba = ba := by simp [overAlpha]

@[simp] theorem overAlpha_zero_right (sa : Rat) : overAlpha sa 0 = sa := by simp [overAlpha]

@[simp] theorem overAlpha_one_left (ba : Rat) : overAlpha 1 ba = 1 := by simp [overAlpha]

@[simp] theorem overAlpha_one_right (sa : Rat) : overAlpha sa 1 = 1 := by simp [overAlpha]

theorem overAlpha_mem {sa ba : Rat} (hsa : sa ∈ Set.Icc 0 1) (hba : ba ∈ Set.Icc 0 1) : overAlpha sa ba ∈ Set.Icc 0 1 := by
  rw [show overAlpha sa ba = (1 - sa) * ba + sa * 1 by unfold overAlpha; ring]
  exact mix_mem_unit hsa hba (Set.right_mem_Icc.2 zero_le_one)

/-- The colour before the division is a sum of fractions weighted by `sa` and `(1 - sa) * ba`, which add up to the alpha. -/
theorem overColour_mem (mode : BlendMode) {sa ba cb cs : Rat} (hsa : sa ∈ Set.Icc 0 1) (hba : ba ∈ Set.Icc 0 1)
    (hcb : cb ∈ Set.Icc 0 1) (hcs : cs ∈ Set.Icc 0 1) : overColour mode sa ba cb cs ∈ Set.Icc 0 1 := by
  obtain ⟨hmix0, hmix1⟩ := mix_mem_unit hba hcs (blend_mem mode hcb hcs)
  have hrest : 0 ≤ (1 - sa) * ba := mul_nonneg (sub_nonneg.2 hsa.2) hba.1
  have halpha : overAlpha sa ba = sa * 1 + (1 - sa) * ba * 1 := by unfold overAlpha; ring
  refine ⟨div_nonneg (add_nonneg (mul_nonneg hsa.1 hmix0) (mul_nonneg hrest hcb.1)) (overAlpha_mem hsa hba).1,
    div_le_one_of_le₀ ?_ (overAlpha_mem hsa hba).1⟩
  rw [halpha]
  exact add_le_add (mul_le_mul_of_nonneg_left hmix1 hsa.1) (mul_le_mul_of_nonneg_left hcb.2 hrest)

/-- A source of alpha 0 leaves the backdrop's colour. -/
theorem overColour_of_source_zero (mode : BlendMode) {ba : Rat} (hba : ba ≠ 0) (cb cs : Rat) :
    overColour mode 0 ba cb cs = cb := by
  simp [overColour, hba]

/-- Over a backdrop of alpha 0 every mode gives the source's colour. -/
theorem overColour_of_backdrop_zero (mode : BlendMode) {sa : Rat} (hsa : sa ≠ 0) (cb cs : Rat) :
    overColour mode sa 0 cb cs = cs := by
  simp [overColour, hsa]

/-- An opaque source in normal mode hides the backdrop. -/
theorem overColour_normal_opaque (ba cb cs : Rat) : overColour .normal 1 ba cb cs = cs := by
  simp only [overColour, overAlpha_one_left, blend]
  ring

/-! ## The step (R229, R232) -/

section
variable {mode : BlendMode} {op : Rat} {b s : Pixel}

theorem composite_of_alpha_zero (h : overAlpha (unit s.a * op) (unit b.a) = 0) : composite mode op b s = Pixel.clear :=
  if_pos h

/-- Where something is visible each channel is the byte of its exact value. -/
theorem composite_of_alpha_ne_zero (h : overAlpha (unit s.a * op) (unit b.a) ≠ 0) :
    composite mode op b s =
      let colour := fun backdrop source : Byte =>
        quantized (overColour mode (unit s.a * op) (unit b.a) (unit backdrop) (unit source))
      { r := colour b.r s.r, g := colour b.g s.g, b := colour b.b s.b
        a := quantized (overAlpha (unit s.a * op) (unit b.a)) } :=
  if_neg h

theorem chan_composite (h : overAlpha (unit s.a * op) (unit b.a) ≠ 0) {c : Nat} (hc : c < 3) :
    (composite mode op b s).chan c
      = quantized (overColour mode (unit s.a * op) (unit b.a) (unit (b.chan c)) (unit (s.chan c))) := by
  rw [composite_of_alpha_ne_zero h]
  interval_cases c <;> rfl

/-- A source that contributes no alpha leaves a pixel as it was, unless that has a colour under alpha 0 (log 11). -/
theorem composite_of_source_zero (hs : unit s.a * op = 0) (hclear : b.a = 0#8 → b = Pixel.clear) :
    composite mode op b s = b := by
  by_cases hb : b.a = 0#8
  · rw [composite_of_alpha_zero (by simp [hs, hb]), hclear hb]
  · have hba : unit b.a ≠ 0 := mt (unit_eq_zero_iff _).1 hb
    rw [composite_of_alpha_ne_zero (by simpa [hs] using hba)]
    simp [hs, overColour_of_source_zero mode hba]

/-- Over a pixel of alpha 0 a visible source keeps its colour. -/
theorem composite_of_backdrop_zero (hb : b.a = 0#8) (hs : unit s.a * op ≠ 0) :
    composite mode op b s = { s with a := quantized (unit s.a * op) } := by
  rw [composite_of_alpha_ne_zero (by simpa [hb] using hs)]
  simp [hb, overColour_of_backdrop_zero mode hs]

/-- An opaque source in normal mode replaces the pixel. -/
theorem composite_normal_opaque (hs : s.a = 255#8) : composite .normal 1 b s = s := by
  obtain ⟨red, green, blue, alpha⟩ := s
  obtain rfl : alpha = 255#8 := hs
  rw [composite_of_alpha_ne_zero (by simp)]
  simp [overColour_normal_opaque]

/-- An opaque pixel stays opaque. -/
theorem composite_opaque_backdrop (hb : b.a = 255#8) : (composite mode op b s).a = 255#8 := by
  rw [composite_of_alpha_ne_zero (by simp [hb])]
  simp [hb]

end

/-! ## The statements -/

/-- Settles O59: each channel is the byte of a fraction of `[0, 1]`. -/
theorem compositeByFormula : Obligations.CompositeByFormula := by
  intro mode op b s hop0 hop1 sa ba ao blended
  have hsa : sa ∈ Set.Icc 0 1 := mul_mem_unit (unit_mem s.a) ⟨hop0, hop1⟩
  have hba : ba ∈ Set.Icc 0 1 := unit_mem b.a
  refine ⟨composite_of_alpha_zero, fun hao => ⟨?_, fun c hc => ?_⟩⟩
  · rw [composite_of_alpha_ne_zero hao]
    exact toNat_quantized (overAlpha_mem hsa hba)
  · rw [chan_composite hao hc]
    exact toNat_quantized (overColour_mem mode hsa hba (unit_mem _) (unit_mem _))

/-- Settles O60: the corners are those of the exact alpha and colour. -/
theorem compositeCorners : Obligations.CompositeCorners := by
  intro mode op b s _ _
  refine ⟨fun hs => composite_of_source_zero ?_, fun hb hs hop => ?_, fun hs hop => ?_, composite_opaque_backdrop⟩
  · rw [mul_eq_zero, unit_eq_zero_iff]
    exact hs
  · have halpha : 255 * (unit s.a * op) = s.a.toNat * op := by unfold unit; ring
    rw [composite_of_backdrop_zero hb (mul_ne_zero (mt (unit_eq_zero_iff _).1 hs) hop), quantized, halpha]
  · rw [hop]
    exact composite_normal_opaque hs

end Sys2Proof.Machine
end

section
/-! RENDER on the stacks its rules single out (spec/45_compositor.md R217, R220, R222, R234, R237): its ordered checks, a stack of
which nothing is drawn, the empty stack, and a single layer at scale 1. -/

namespace Sys2Proof.Machine

/-! ## RENDER where its checks pass (R215, R217) -/

/-- The state RENDER leaves where its table and its destination are valid and apart. -/
theorem exec_render {s : State} (bl : Bool) (htable : (tableRange s).valid s.mem = true)
    (hdest : (renderDest s).valid s.mem = true) (hmeets : (renderDest s).meets (tableRange s) = false) :
    exec (.render bl) s = .next ((s.wrote (u32 s.a[4]) (renderBytes bl s) (renderResults s)).ended doneStatus) :=
  exec_of_checks (i := .render bl) ((renderChecks_pass_iff s).2 ⟨htable, hdest, hmeets⟩)

/-- Byte `i` of a stored RGBA buffer is channel `i % 4` of its pixel `i / 4` (R50). -/
theorem read_store_pixelBytes (m : Memory) (base : Nat) {n i : Nat} (f : Nat → Pixel) (hi : i < 4 * n) :
    (m.store base (pixelBytes n f)).read (base + i) = (f (i / 4)).chan (i % 4) := by
  have haddr : base + i = base + 4 * (i / 4) + i % 4 := by omega
  rw [haddr, ← chan_rgba _ _ _ (Nat.mod_lt i (by norm_num)), rgba_store_pixelBytes _ _ _ _ _ (by omega)]

/-! ## Nothing drawn (R220, R222, R228) -/

/-- A layer that is deleted, invisible or malformed is not drawn. -/
theorem isDrawn_eq_false {s : State} {l : Layer}
    (h : l.deleted = true ∨ l.visible = false ∨ l.kind = none ∨ l.width ≤ 0 ∨ l.height ≤ 0
      ∨ l.dataRange.valid s.mem = false ∨ l.dataRange.meets (renderDest s) = true) : isDrawn s l = false := by
  rw [← Bool.not_eq_true, isDrawn_iff, malformed_eq_false_iff]
  rintro ⟨hdeleted, hvisible, ⟨hkind, hwidth, hheight, hvalid, hmeets⟩, -⟩
  simp [hdeleted, hvisible, hkind, hwidth.not_ge, hheight.not_ge, hvalid, hmeets] at h

/-- Where nothing is drawn every pixel of the canvas is transparent black. -/
theorem canvasPixel_of_nil {s : State} (h : drawnLayers s = []) (bl : Bool) (cx cy : Nat) :
    canvasPixel s bl cx cy = Pixel.clear := by
  rw [canvasPixel, h, List.foldl_nil]

theorem chan_clear (c : Nat) : Pixel.clear.chan c = 0 := by
  unfold Pixel.chan
  split <;> rfl

/-! ## The empty stack (R237) -/

theorem has_eq_false_of_empty {g : Range} (h : g.len = 0) (x : Nat) : g.has x = false := by
  rw [← Bool.not_eq_true, has_iff]
  omega

theorem meets_eq_false_of_empty {g : Range} (h : g.len = 0) (g' : Range) : g.meets g' = false := by
  simp [Range.meets, h]

theorem renderLayers_of_count_zero {s : State} (h : s.a[1] = 0) : renderLayers s = [] := by
  rw [← List.length_eq_zero_iff, renderLayers, length_layers, h]
  rfl

section
variable {s : State} (h : renderLayers s = [])
include h

theorem drawnLayers_of_no_layers : drawnLayers s = [] := by
  rw [drawnLayers, h, List.filter_nil]

theorem canvas_of_no_layers : canvasW s = 0 ∧ canvasH s = 0 := by
  simp [canvasW, canvasH, h, canvasSize_of_deleted]

theorem renderResults_of_no_layers : renderResults s = Vector.replicate 6 0 := by
  obtain ⟨hw, hh⟩ := canvas_of_no_layers h
  rw [renderResults, lastPlacement_of_nil (drawnLayers_of_no_layers h), hw, hh]
  rfl

theorem renderDest_of_no_layers : (renderDest s).len = 0 := by
  simp [renderDest, canvas_of_no_layers h]

end

/-! ## A single layer at scale 1 (R218, R219, R223, R226, R234) -/

theorem renderLayers_of_count_one {s : State} (h : s.a[1] = 1) : renderLayers s = [s.mem.layer (u32 s.a[0])] := by
  rw [renderLayers, h]
  rfl

/-- Two factors of 1.0 scale no side. -/
theorem scaledSide_of_one {s : State} (h2 : s.a[2] = 0x00010000#32) (h3 : s.a[3] = 0x00010000#32) (v : Int) :
    scaledSide s v = v := by
  have hscale : scaleNum s = 2 ^ 32 := by
    rw [scaleNum, h2, h3]
    rfl
  rw [scaledSide, hscale]
  omega

/-- RENDER's stack is the one layer `l`, which has a size and is not deleted, and its scale is 1. -/
structure SingleLayer (s : State) (l : Layer) : Prop where
  stack : renderLayers s = [l]
  scale : ∀ v, scaledSide s v = v
  width : 0 < l.width
  height : 0 < l.height
  kept : l.deleted = false

namespace SingleLayer
variable {s : State} {l : Layer} (h : SingleLayer s l)
include h

theorem canvas : canvasW s = l.width.toNat ∧ canvasH s = l.height.toNat := by
  have hfind : (renderLayers s).find? (fun l => !l.deleted) = some l := by simp [h.stack, h.kept]
  have hw := canvasSide_eq s l.width
  have hh := canvasSide_eq s l.height
  rw [h.scale] at hw hh
  rw [canvasW, canvasH, canvasSize_of_find hfind]
  exact ⟨by omega, by omega⟩

theorem renderDest_eq : renderDest s = { base := u32 s.a[4], len := 4 * l.pixels } := by
  obtain ⟨hw, hh⟩ := h.canvas
  rw [renderDest, hw, hh, pixels_eq_mul h.width h.height]

/-- The layer covers its canvas exactly. -/
theorem place_covers :
    place (renderScale s) (canvasW s) (canvasH s) l = { dx := 0, dy := 0, drawW := l.width, drawH := l.height } := by
  obtain ⟨hw, hh⟩ := h.canvas
  have hwidth := h.width
  have hheight := h.height
  rw [place_eq, h.scale, h.scale, hw, hh, Placement.mk.injEq]
  omega

theorem drawnLayers_eq (hvisible : l.visible = true) (hform : malformed s.mem (renderDest s) l = false) :
    drawnLayers s = [l] := by
  have hdrawn : isDrawn s l = true :=
    (isDrawn_iff s l).2 ⟨h.kept, hvisible, hform, by rw [h.scale]; exact h.width, by rw [h.scale]; exact h.height⟩
  simp [drawnLayers, h.stack, hdrawn]

theorem renderResults_eq (hdrawn : drawnLayers s = [l]) :
    renderResults s = #v[wordOf l.width, wordOf l.height, 0, 0, wordOf l.width, wordOf l.height] := by
  obtain ⟨hw, hh⟩ := h.canvas
  have hlast : lastPlacement s = { dx := 0, dy := 0, drawW := l.width, drawH := l.height } := by
    rw [lastPlacement_of_getLast? (l := l) (by rw [hdrawn]; rfl), h.place_covers]
  rw [renderResults, hlast, hw, hh, Int.toNat_of_nonneg h.width.le, Int.toNat_of_nonneg h.height.le]
  rfl

/-- Every canvas pixel is the layer's own pixel, composited over transparent black. -/
theorem canvasPixel_eq (hdrawn : drawnLayers s = [l]) {cx cy : Nat} (hx : cx < l.width.toNat) (hy : cy < l.height.toNat) :
    canvasPixel s false cx cy
      = composite l.blend l.op Pixel.clear (normPixel s.mem l false (cy * l.width.toNat + cx)) := by
  rw [canvasPixel, hdrawn, List.foldl_cons, List.foldl_nil, drawOn, h.place_covers]
  simp only [Int.sub_zero, Int.toNat_natCast, layerPixel_nearest, Nat.mul_div_cancel _ (Nat.zero_lt_of_lt hx),
    Nat.mul_div_cancel _ (Nat.zero_lt_of_lt hy)]
  exact if_pos (by omega)

end SingleLayer

theorem op_of_full {l : Layer} (h : 65536 ≤ u32 l.opacity) : l.op = 1 := by
  rw [Layer.op, Nat.min_eq_right h]
  norm_num

/-! ## The statements -/

/-- Settles O56: no layer is drawn, so every byte of the canvas is a channel of transparent black. -/
theorem renderSkipsBadLayersSilently : Obligations.RenderSkipsBadLayersSilently := by
  intro bl s htable hdest hmeets hbad
  have hnil : drawnLayers s = [] :=
    List.filter_eq_nil_iff.2 fun l hl => ne_true_of_eq_false (isDrawn_eq_false (hbad l hl))
  refine ⟨_, exec_render bl htable hdest hmeets, rfl, fun i hi => ?_,
    renderResults_of_lastPlacement (lastPlacement_of_nil hnil)⟩
  calc (s.mem.store (u32 s.a[4]) (renderBytes bl s)).read (u32 s.a[4] + i)
      = (canvasPixel s bl (i / 4 % canvasW s) (i / 4 / canvasW s)).chan (i % 4) := read_store_pixelBytes _ _ _ hi
    _ = 0 := by rw [canvasPixel_of_nil hnil, chan_clear]

/-- Settles O57: the table and the destination are empty, so every check passes and the destination holds no address. -/
theorem renderOfNoLayers : Obligations.RenderOfNoLayers := by
  intro bl s hcount
  have hlayers := renderLayers_of_count_zero hcount
  have hdest := renderDest_of_no_layers hlayers
  have htable : (tableRange s).len = 0 := by
    rw [tableRange, hcount]
    rfl
  have hexec := exec_render bl ((valid_iff _ s.mem).2 (.inl htable)) ((valid_iff _ s.mem).2 (.inl hdest))
    (meets_eq_false_of_empty hdest _)
  refine ⟨_, hexec, rfl, fun x => (frame_wrote (.render bl) s _ _).memory x ?_, fun n hn => ?_⟩
  · exact has_eq_false_of_empty hdest x
  · simp [renderResults_of_no_layers hlayers]

/-- Settles O58: the canvas is the layer's own size, the layer covers it, and an opaque pixel in normal mode replaces transparent
black. -/
theorem renderSingleOpaqueLayer : Obligations.RenderSingleOpaqueLayer := by
  intro s l dest hcount hcontent hbase hkept hvisible hkind hwidth hheight hblend hopacity hopaque htable hdata hvalid hmeets hapart
  have hsingle : SingleLayer s l :=
    ⟨renderLayers_of_count_one hcount, scaledSide_of_one hcontent hbase, hwidth, hheight, hkept⟩
  have hdest : renderDest s = dest := hsingle.renderDest_eq
  have htableEq : tableRange s = descriptorRange s := by
    rw [tableRange, hcount]
    rfl
  have hdrawn : drawnLayers s = [l] := hsingle.drawnLayers_eq hvisible
    ((malformed_eq_false_iff _ _ _).2 ⟨hkind, hwidth, hheight, hdata, hdest ▸ hapart⟩)
  refine ⟨_, exec_render false (htableEq ▸ htable) (hdest ▸ hvalid) (by rw [hdest, htableEq, hmeets]),
    hdest ▸ frame_wrote (.render false) s _ _, rfl, hsingle.renderResults_eq hdrawn, fun i hi => ?_⟩
  obtain ⟨hw, hh⟩ := hsingle.canvas
  have hi' : i < l.width.toNat * l.height.toNat := pixels_eq_mul hwidth hheight ▸ hi
  have hpos : 0 < l.width.toNat := Nat.pos_of_mul_pos_right (Nat.zero_lt_of_lt hi')
  calc (s.mem.store (u32 s.a[4]) (renderBytes false s)).rgba (u32 s.a[4]) i
      = canvasPixel s false (i % l.width.toNat) (i / l.width.toNat) := by
        rw [renderBytes, hw, hh]
        exact rgba_store_pixelBytes _ _ _ _ _ hi'
    _ = composite l.blend l.op Pixel.clear (normPixel s.mem l false i) := by
        rw [hsingle.canvasPixel_eq hdrawn (Nat.mod_lt i hpos) (Nat.div_lt_of_lt_mul hi'), Nat.div_add_mod']
    _ = normPixel s.mem l false i := by
        rw [hblend, op_of_full hopacity, composite_normal_opaque (hopaque i hi)]

/-- Settles O55: the STATUS of RENDER's list of checks, each check's failure spelled out. -/
theorem renderReportsFirstFailingCheck : Obligations.RenderReportsFirstFailingCheck := by
  refine fun bl s => exec_status_of_checks (.render bl) ?_
  simp only [checks, renderChecks, endStatus_cons, endStatus_nil, Bool.not_eq_false']
  rfl

end Sys2Proof.Machine
end

section
/-! Errors of commands (spec/60_exceptions.md R245 to R250): the STATUS word of an error in numbers, which errors the checks of a
command name, and that an error leaves its word in STATUS and nothing else. -/

namespace Sys2Proof.Machine

/-! ## The STATUS word of an error (R245 to R247) -/

/-- The fields of R247's word do not meet, so their disjunction is their sum. -/
theorem statusWord_eq_ofNat (e : CoreError) : e.statusWord = BitVec.ofNat 32 (2 ^ 16 + 256 * e.sub + e.code) := by
  cases e with
  | illegalCommand c => cases c <;> rfl
  | _ => rfl

theorem raised_eq_update (e : CoreError) (s : State) :
    raised e s = { s with status := BitVec.ofNat 32 (2 ^ 16 + 256 * e.sub + e.code) } := by
  rw [raised, State.ended, statusWord_eq_ofNat]

/-! ## The errors of a command's checks (R248) -/

/-- A command's check names an error of the command's row, or it is the decoder's check of a reserved field, which passes exactly
for a legal command (R88). -/
theorem check_listed_or_reservedField (i : Instr) (s : State) :
    ∀ c ∈ checks i s, c.2.statusWord ∈ listedErrors i ∨ c = (i.wf, .illegalCommand .reservedField) := by
  simp only [statusWord_eq_ofNat]
  cases i with
  | norm ao fo => simp [checks, normChecks, listedErrors, CoreError.code, CoreError.sub]
  | gb7dec => simp [checks, gb7decChecks, listedErrors, CoreError.code, CoreError.sub]
  | gb7enc fo => simp [checks, gb7encChecks, listedErrors, CoreError.code, CoreError.sub]
  | lutbuild d7 => simp [checks, lutbuildChecks, listedErrors, CoreError.code, CoreError.sub]
  | curve lr lg lb la => simp [checks, curveChecks, listedErrors, CoreError.code, CoreError.sub]
  | curveg7 yl am inv cmb => simp [checks, curveg7Checks, listedErrors, Instr.wf, CoreError.code, CoreError.sub]
  | hist ao => simp [checks, histChecks, listedErrors, CoreError.code, CoreError.sub]
  | histg7 => simp [checks, histg7Checks, listedErrors, CoreError.code, CoreError.sub]
  | convrgb ksel | conva ksel => simp [checks, convChecks, listedErrors, Instr.wf, CoreError.code, CoreError.sub]
  | rsnn | rsbl => simp [checks, resampleChecks, listedErrors, CoreError.code, CoreError.sub]
  | render bl => simp [checks, renderChecks, listedErrors, CoreError.code, CoreError.sub]

/-- In a legal command the check of a reserved field passes, so the check that fails is one of the command's row. -/
theorem statusWord_listed_of_failing {i : Instr} {s : State} {e : CoreError} (hwf : i.wf = true)
    (h : firstFailing (checks i s) = some e) : e.statusWord ∈ listedErrors i := by
  obtain hlisted | hreserved := check_listed_or_reservedField i s _ (firstFailing_mem h)
  · exact hlisted
  · have hillegal : false = i.wf := congrArg Prod.fst hreserved
    exact absurd (hillegal.trans hwf) Bool.false_ne_true

/-! ## The statements -/

/-- Settles O17: a failing check ends the command in `raised`, and only a failing check keeps it from the STATUS of a success. -/
theorem errorWritesOnlyStatus : Obligations.ErrorWritesOnlyStatus := by
  refine fun i s => ⟨fun e hfail => (exec_of_failing hfail).trans (congrArg _ (raised_eq_update e s)), fun t ht hstatus => ?_⟩
  obtain ⟨e, hfail, rfl⟩ | ⟨-, rfl⟩ := exec_cases ht
  · exact ⟨rfl, e, hfail⟩
  · exact absurd rfl hstatus

/-- Settles O18: a command that ends with an error had a failing check, and a legal command's checks name errors of its row. -/
theorem commandsRaiseOnlyListedErrors : Obligations.CommandsRaiseOnlyListedErrors := by
  intro i s t hwf ht
  obtain ⟨e, hfail, rfl⟩ | ⟨-, rfl⟩ := exec_cases ht
  · exact .inr (statusWord_listed_of_failing hwf hfail)
  · exact .inl rfl

end Sys2Proof.Machine
end
